-- ==== Sys2Proof/Word.lean ====
section
/-! DEFINITION. The bit-vector types of the block: every value is an unsigned bit vector of a stated
width (spec/00_scope.md R7). -/

namespace Sys2Proof

/-- A byte: chip registers, T, address bytes (R7, R35). -/
abbrev Byte := BitVec 8

/-- A word: A, B, R, RES, the response (R7, R13). -/
abbrev Word := BitVec 16

/-- A register address as it travels in the low seven bits of an address byte (R35). -/
abbrev RegAddr := BitVec 7

/-- A command word (R65). -/
abbrev CmdWord := BitVec 40

end Sys2Proof
end

