-- ==== Sys2Proof/Config.lean ====
section
/-! DEFINITION. The implementation parameters of spec/00_scope.md R6, their defaults, and the free
values: what the spec leaves to the environment, as constants without a body. -/

namespace Sys2Proof

/-- The configuration record of R6. It is an argument of the model (R24, R157): `Machine.State`
carries it and no step writes it. -/
structure Config where
  /-- `BIAS_NORMALLY_OFF` (R24, R157): 1 = READ_RTD switches bias on and off around a conversion. -/
  biasNormallyOff : Bool
  /-- `TICK_HZ` (R6, R146). -/
  tickHz : Nat
  /-- `TIMER_W`, the width of TMR (R6, R21). -/
  timerW : Nat
  aConfig : Byte
  aRtdMsb : Byte
  aRtdLsb : Byte
  aHthrMsb : Byte
  aHthrLsb : Byte
  aLthrMsb : Byte
  aLthrLsb : Byte
  aFault : Byte
  mBias : Byte
  mAuto : Byte
  m1Shot : Byte
  m3Wire : Byte
  mFcycle : Byte
  mFclr : Byte
  mFilt : Byte
  fHighThr : Byte
  fLowThr : Byte
  fRefInLow : Byte
  fRefInHigh : Byte
  fRtdInLow : Byte
  fOvUv : Byte
  /-- `CLEARFAULT_CLEAR_MASK` (R6, R117, 90_conflicts C1). -/
  clearFaultClearMask : Byte
  deriving DecidableEq, Repr

namespace Config

/-- `SETTLE_MS` (R6): 10 ms, fixed by the source. -/
def settleMs : Nat := 10

/-- `CONV_MS` (R6): 55 ms, fixed by the source. -/
def convMs : Nat := 55

/-- `WRITE_MARK` (R6): bit 7 of the address byte. -/
def writeMark : Byte := 0x80#8

/-- `THR_OPEN_LO` (R6): the lower threshold BEGIN writes. -/
def thrOpenLo : Word := 0x0000#16

/-- `THR_OPEN_HI` (R6): the upper threshold BEGIN writes. -/
def thrOpenHi : Word := 0xFFFF#16

/-- The number of ticks of `ms` milliseconds, rounded up (R6, 92 D7). -/
def ticksOf (ms hz : Nat) : Nat := (ms * hz + 999) / 1000

/-- `SETTLE_TICKS` (R6). -/
def settleTicks (c : Config) : Nat := ticksOf settleMs c.tickHz

/-- `CONV_TICKS` (R6). -/
def convTicks (c : Config) : Nat := ticksOf convMs c.tickHz

/-- The defaults of R6 with the flag `BIAS_NORMALLY_OFF` as an argument. PRESUMED (log 7): addresses and
masks are R6's 'general knowledge' defaults (93 G1, G2, G3, G8). -/
def defaults (bno : Bool) : Config where
  biasNormallyOff := bno
  tickHz := 1000000
  timerW := 16
  aConfig := 0x00#8
  aRtdMsb := 0x01#8
  aRtdLsb := 0x02#8
  aHthrMsb := 0x03#8
  aHthrLsb := 0x04#8
  aLthrMsb := 0x05#8
  aLthrLsb := 0x06#8
  aFault := 0x07#8
  mBias := 0x80#8
  mAuto := 0x40#8
  m1Shot := 0x20#8
  m3Wire := 0x10#8
  mFcycle := 0x0C#8
  mFclr := 0x02#8
  mFilt := 0x01#8
  fHighThr := 0x80#8
  fLowThr := 0x40#8
  fRefInLow := 0x20#8
  fRefInHigh := 0x10#8
  fRtdInLow := 0x08#8
  fOvUv := 0x04#8
  clearFaultClearMask := 0x2C#8

/-! Free values (log 4, 5, 8, 12, 18, 27): constants without a body, applied to a counter of the state, so
that no proof can rest on what they are. -/

/-- The first byte a read of the oracle returns (R52: 'any n bytes'). -/
opaque freeByte0 : Nat → Byte

/-- The second byte a 16-bit read of the oracle returns (R52). -/
opaque freeByte1 : Nat → Byte

/-- How many ticks a transport operation takes (R9, R169, 92 D25: finite, otherwise unconstrained). -/
opaque freeDuration : Nat → Nat

/-- How many ticks a micro-step without transport activity or delay takes (R9). -/
opaque freeLag : Nat → Nat

/-- A byte of the transport port that carries no meaning in the open handshake (R28). -/
opaque freeUndriven : Nat → Byte

/-- What a chip register holds that nothing has written since the chip's contents became unspecified
(R154, R156): by the count of such events and the address. -/
opaque freeChipByte : Nat → Nat → Byte

/-- ENV-REF's draw for the duration of a conversion (R56), before it is folded into its range. -/
opaque freeConversionTicks : Nat → Nat

/-- ENV-REF's draw for the measurement (R56). -/
opaque freeMeasurement : Nat → Word

/-- Whether, when, and with what word a conversion is pending in a chip left behind by a reset while
busy (R156). -/
opaque freePending : Nat → Option (Nat × Word)

end Config
end Sys2Proof
end

