-- ==== Sys2Proof/Syntax.lean ====
section
/-! DEFINITION. The instructions: one constructor for each of the 36 rows of spec/opcode_table.json,
and the words they are read from. -/

namespace Sys2Proof

/-- The wiring-mode operand (spec/30_encoding.md R66); the reserved code 3 is the business of the illegal
rows. -/
inductive WireMode where
  | two
  | three
  | four
  deriving DecidableEq, Repr

/-- The instructions. Operands called `ignA`, `ignB` are the operand bits the command ignores (R69): they
are kept because acceptance latches the whole word into `op`, `A` and `B` (R26). -/
inductive Instr where
  /-- BEGIN(mode), R106. -/
  | beginCmd (mode : WireMode) (ignA : BitVec 14) (ignB : Word)
  /-- READ_RTD, R120, R121. -/
  | readRtd (ignA ignB : Word)
  /-- READ_FAULT, R116. -/
  | readFault (ignA ignB : Word)
  /-- CLEAR_FAULT, R117. -/
  | clearFault (ignA ignB : Word)
  /-- ENABLE_BIAS(b), R108. -/
  | enableBias (on : Bool) (ignA : BitVec 15) (ignB : Word)
  /-- AUTO_CONVERT(b), R109. -/
  | autoConvert (on : Bool) (ignA : BitVec 15) (ignB : Word)
  /-- SET_WIRES(mode), R107. -/
  | setWires (mode : WireMode) (ignA : BitVec 14) (ignB : Word)
  /-- SET_THRESHOLDS(lower, upper), R110. -/
  | setThresholds (lower upper : Word)
  /-- GET_LOWER_THRESHOLD, R111. -/
  | getLowerThreshold (ignA ignB : Word)
  /-- GET_UPPER_THRESHOLD, R112. -/
  | getUpperThreshold (ignA ignB : Word)
  /-- Illegal word (R70, R139): op 0x00 with A[1:0] = 3. -/
  | illegalBeginMode3 (ignA : BitVec 14) (ignB : Word)
  /-- Illegal word: op 0x06 with A[1:0] = 3. -/
  | illegalSetWiresMode3 (ignA : BitVec 14) (ignB : Word)
  /-- Illegal word: op 0x0A, 0x0B; `low` is the opcode's free bit. -/
  | illegalOp0A0B (low : BitVec 1) (ignA ignB : Word)
  /-- Illegal word: op 0x0C to 0x0F. -/
  | illegalOp0C0F (low : BitVec 2) (ignA ignB : Word)
  /-- Illegal word: op 0x10 to 0x1F. -/
  | illegalOp101F (low : BitVec 4) (ignA ignB : Word)
  /-- Illegal word: op 0x20 to 0x3F. -/
  | illegalOp203F (low : BitVec 5) (ignA ignB : Word)
  /-- Illegal word: op 0x40 to 0x7F. -/
  | illegalOp407F (low : BitVec 6) (ignA ignB : Word)
  /-- Illegal word: op 0x80 to 0xFF. -/
  | illegalOp80FF (low : BitVec 7) (ignA ignB : Word)
  /-- RD8 a, R98. -/
  | rd8 (a : RegAddr)
  /-- RD16 a, R99. -/
  | rd16 (a : RegAddr)
  /-- WR8 a, v, R100. -/
  | wr8 (a : RegAddr) (v : Byte)
  /-- INIT, R97. -/
  | initTransport
  /-- The read frame of the configuration register at its default address, R98. -/
  | frameRdConfig
  /-- The 16-bit read frame of the result pair at its default address, R99. -/
  | frameRdRtd
  /-- The 16-bit read frame of the upper threshold at its default address, R99. -/
  | frameRdHthr
  /-- The 16-bit read frame of the lower threshold at its default address, R99. -/
  | frameRdLthr
  /-- The read frame of the fault status at its default address, R98. -/
  | frameRdFault
  /-- The write frame of the configuration register, R100. -/
  | frameWrConfig (v : Byte)
  /-- The write frame of the upper threshold's high byte, R100. -/
  | frameWrHthrMsb (v : Byte)
  /-- The write frame of the upper threshold's low byte, R100. -/
  | frameWrHthrLsb (v : Byte)
  /-- The write frame of the lower threshold's high byte, R100. -/
  | frameWrLthrMsb (v : Byte)
  /-- The write frame of the lower threshold's low byte, R100. -/
  | frameWrLthrLsb (v : Byte)
  /-- The layout of the configuration register (R81), given to the codec: CFG_UNPACK (R82). -/
  | configReg (c : Byte)
  /-- The layout of the fault-status register (R86): FAULT_UNPACK (R87). -/
  | faultReg (f : Byte)
  /-- The layout of the result word: RTD_SPLIT (R89). -/
  | rtdWord (w : Word)
  /-- The layout of a threshold word: THR_SPLIT (R91). -/
  | thresholdWord (v : Word)
  deriving DecidableEq, Repr

/-- Which layout a word given to the codec has (R76). -/
inductive CodecSel where
  | config
  | fault
  | rtd
  | threshold
  deriving DecidableEq, Repr

/-- An encoded instruction, at the port where it stands (R63): a command word on the command port (R65), a
request on the transport port (R28, R72, R73), or a register word at the codec (R76). -/
inductive PortWord where
  | cmd (w : CmdWord)
  | tport (kind : BitVec 2) (w0 w1 : Byte) (rlen : BitVec 2)
  | codec (sel : CodecSel) (w : Word)
  deriving DecidableEq, Repr

end Sys2Proof
end

