-- ==== Sys2Proof/WellFormed.lean ====
section
/-! DEFINITION. What a well-formed instruction and a well-formed configuration record are. -/

namespace Sys2Proof

/-- RD8 by that name: its frame is none of the named read frames of one response byte (opcode table: the
row with more mask bits wins). -/
def rd8AddrOk (a : RegAddr) : Bool := a != 0x00#7 && a != 0x07#7

/-- RD16 by that name: its frame is none of the named read frames of two response bytes. -/
def rd16AddrOk (a : RegAddr) : Bool := a != 0x01#7 && a != 0x03#7 && a != 0x05#7

/-- WR8 by that name: its frame is none of the named write frames. -/
def wr8AddrOk (a : RegAddr) : Bool :=
  a != 0x00#7 && a != 0x03#7 && a != 0x04#7 && a != 0x05#7 && a != 0x06#7

/-- An instruction is well formed when it is the one its word decodes to. Every operand is a bit vector of
the width its row gives it, so only the general frames, which share words with the named ones, need a
check. -/
def Instr.wellFormed : Instr → Bool
  | .rd8 a => rd8AddrOk a
  | .rd16 a => rd16AddrOk a
  | .wr8 a _ => wr8AddrOk a
  | .beginCmd .. | .readRtd .. | .readFault .. | .clearFault .. | .enableBias .. | .autoConvert ..
  | .setWires .. | .setThresholds .. | .getLowerThreshold .. | .getUpperThreshold ..
  | .illegalBeginMode3 .. | .illegalSetWiresMode3 .. | .illegalOp0A0B .. | .illegalOp0C0F ..
  | .illegalOp101F .. | .illegalOp203F .. | .illegalOp407F .. | .illegalOp80FF .. | .initTransport
  | .frameRdConfig | .frameRdRtd | .frameRdHthr | .frameRdLthr | .frameRdFault | .frameWrConfig ..
  | .frameWrHthrMsb .. | .frameWrHthrLsb .. | .frameWrLthrMsb .. | .frameWrLthrLsb .. | .configReg ..
  | .faultReg .. | .rtdWord .. | .thresholdWord .. => true

namespace Config

/-- The eight address parameters. -/
def addresses (c : Config) : List Byte :=
  [c.aConfig, c.aRtdMsb, c.aRtdLsb, c.aHthrMsb, c.aHthrLsb, c.aLthrMsb, c.aLthrLsb, c.aFault]

/-- The seven configuration masks. -/
def cfgMasks (c : Config) : List Byte :=
  [c.mBias, c.mAuto, c.m1Shot, c.m3Wire, c.mFcycle, c.mFclr, c.mFilt]

/-- The six fault-status masks. -/
def faultMasks (c : Config) : List Byte :=
  [c.fHighThr, c.fLowThr, c.fRefInLow, c.fRefInHigh, c.fRtdInLow, c.fOvUv]

/-- Exactly one bit is set. -/
def oneBit (m : Byte) : Bool := (List.range 8).any fun k => m == 1#8 <<< k

/-- Exactly two bits are set, and they are adjacent. DEDUCED (log 14): R6 asks for two bits; R82 reads the
field as `(c & M) >> lowbit(M)` of two bits, which needs them adjacent. -/
def twoAdjacentBits (m : Byte) : Bool := (List.range 7).any fun k => m == 3#8 <<< k

/-- No two of the masks share a bit. -/
def disjoint (l : List Byte) : Bool := decide (l.Pairwise fun m n => m &&& n = 0#8)

/-- 'every address is below 0x80' (R6). -/
def addressesOk (c : Config) : Bool := c.addresses.all fun a => a.toNat < 0x80

/-- `A_RTD_LSB = A_RTD_MSB + 1` and its two fellows (R6, R44). -/
def pairsOk (c : Config) : Bool :=
  c.aRtdLsb == c.aRtdMsb + 1#8 && c.aHthrLsb == c.aHthrMsb + 1#8 && c.aLthrLsb == c.aLthrMsb + 1#8

/-- The configuration masks: disjoint, covering 0xFF, two bits for the fault cycle, one for each other
(R6). -/
def cfgMasksOk (c : Config) : Bool :=
  disjoint c.cfgMasks && (c.cfgMasks.foldl (· ||| ·) 0#8 == 0xFF#8) && twoAdjacentBits c.mFcycle
    && [c.mBias, c.mAuto, c.m1Shot, c.m3Wire, c.mFclr, c.mFilt].all oneBit

/-- The fault masks: disjoint single bits (R6). -/
def faultMasksOk (c : Config) : Bool := disjoint c.faultMasks && c.faultMasks.all oneBit

/-- Both delays fit TMR (R6) and last at least one tick (R101). -/
def ticksOk (c : Config) : Bool :=
  c.convTicks < 2 ^ c.timerW && c.settleTicks < 2 ^ c.timerW && 1 ≤ c.settleTicks && 1 ≤ c.convTicks

/-- The constraints R6 asks a model to check on the record. -/
def wf (c : Config) : Bool :=
  c.addressesOk && c.pairsOk && c.cfgMasksOk && c.faultMasksOk && c.ticksOk

/-- `CLEARFAULT_CLEAR_MASK` 'never contains M_BIAS, M_AUTO, M_3WIRE or M_FILT' (R117). Not part of `wf`: 90
C1 lets a reader choose a mask with the bias bit. -/
def clearMaskPreserves (c : Config) : Bool :=
  c.clearFaultClearMask &&& (c.mBias ||| c.mAuto ||| c.m3Wire ||| c.mFilt) == 0#8

/-- The addresses are those of ENV-REF's eight registers, each a register of its own (R36, R53). -/
def refMapOk (c : Config) : Bool :=
  (c.addresses.all fun a => a.toNat ≤ 0x07) && decide (c.addresses.Pairwise (· ≠ ·))

end Config
end Sys2Proof
end

