-- ==== Sys2Proof/Decode.lean ====
section
/-! DEFINITION. Decoding, total on every port word, and the encoder written from the same tables
(spec/30_encoding.md). -/

namespace Sys2Proof

/-- Why a port word is no instruction. No command word is ever rejected: R70 gives the illegal ones a
meaning. -/
inductive Reject where
  /-- `t_kind` = 3, 'never driven' (R28). -/
  | kindNeverDriven
  /-- `t_rlen` is not the number of response bytes of the request's kind (R28, R72, R73). -/
  | badReadLength
  /-- Bit 7 of the address byte contradicts the request's kind (R72, R73, R74). -/
  | badAddressMark
  /-- A register word wider than its layout (R76). -/
  | layoutTooWide
  deriving DecidableEq, Repr

/-- What the opcode alone says: the ten commands of R64 and the six illegal ranges of the opcode table. -/
inductive OpClass where
  | beginOp
  | readRtd
  | readFault
  | clearFault
  | enableBias
  | autoConvert
  | setWires
  | setThresholds
  | getLowerThreshold
  | getUpperThreshold
  | op0A0B (low : BitVec 1)
  | op0C0F (low : BitVec 2)
  | op101F (low : BitVec 4)
  | op203F (low : BitVec 5)
  | op407F (low : BitVec 6)
  | op80FF (low : BitVec 7)
  deriving DecidableEq, Repr

/-- The opcodes of R64 and the ranges of R70. -/
def classifyOp (op : Byte) : OpClass :=
  if op = 0x00#8 then .beginOp
  else if op = 0x01#8 then .readRtd
  else if op = 0x02#8 then .readFault
  else if op = 0x03#8 then .clearFault
  else if op = 0x04#8 then .enableBias
  else if op = 0x05#8 then .autoConvert
  else if op = 0x06#8 then .setWires
  else if op = 0x07#8 then .setThresholds
  else if op = 0x08#8 then .getLowerThreshold
  else if op = 0x09#8 then .getUpperThreshold
  else if op.toNat ≤ 0x0B then .op0A0B (op.extractLsb' 0 1)
  else if op.toNat ≤ 0x0F then .op0C0F (op.extractLsb' 0 2)
  else if op.toNat ≤ 0x1F then .op101F (op.extractLsb' 0 4)
  else if op.toNat ≤ 0x3F then .op203F (op.extractLsb' 0 5)
  else if op.toNat ≤ 0x7F then .op407F (op.extractLsb' 0 6)
  else .op80FF (op.extractLsb' 0 7)

/-- The opcode byte of a class. -/
def opcodeOf : OpClass → Byte
  | .beginOp => 0x00#8
  | .readRtd => 0x01#8
  | .readFault => 0x02#8
  | .clearFault => 0x03#8
  | .enableBias => 0x04#8
  | .autoConvert => 0x05#8
  | .setWires => 0x06#8
  | .setThresholds => 0x07#8
  | .getLowerThreshold => 0x08#8
  | .getUpperThreshold => 0x09#8
  | .op0A0B low => 0b0000101#7 ++ low
  | .op0C0F low => 0b000011#6 ++ low
  | .op101F low => 0b0001#4 ++ low
  | .op203F low => 0b001#3 ++ low
  | .op407F low => 0b01#2 ++ low
  | .op80FF low => 0b1#1 ++ low

/-- The wiring mode of `A[1:0]` (R66); 3 is reserved. -/
def wireOfCode (m : BitVec 2) : Option WireMode :=
  if m = 0#2 then some .two else if m = 1#2 then some .three else if m = 2#2 then some .four else none

/-- The code of a wiring mode (R66). -/
def wireCode : WireMode → BitVec 2
  | .two => 0#2
  | .three => 1#2
  | .four => 2#2

/-- The opcode field, bits 39:32 (R65). -/
def cmdOp (w : CmdWord) : Byte := w.extractLsb' 32 8

/-- The field A, bits 31:16 (R65). -/
def cmdA (w : CmdWord) : Word := w.extractLsb' 16 16

/-- The field B, bits 15:0 (R65). -/
def cmdB (w : CmdWord) : Word := w.extractLsb' 0 16

/-- The command word of three fields (R65). -/
def cmdWord (op : Byte) (a b : Word) : CmdWord := op ++ a ++ b

/-- The command or illegal row of an opcode, A and B (R64 to R71). Total: every one of the 2^40 words belongs
to exactly one row. -/
def decodeFields (op : Byte) (a b : Word) : Instr :=
  match classifyOp op with
  | .beginOp =>
    match wireOfCode (a.extractLsb' 0 2) with
    | some mode => .beginCmd mode (a.extractLsb' 2 14) b
    | none => .illegalBeginMode3 (a.extractLsb' 2 14) b
  | .readRtd => .readRtd a b
  | .readFault => .readFault a b
  | .clearFault => .clearFault a b
  | .enableBias => .enableBias (a.getLsbD 0) (a.extractLsb' 1 15) b
  | .autoConvert => .autoConvert (a.getLsbD 0) (a.extractLsb' 1 15) b
  | .setWires =>
    match wireOfCode (a.extractLsb' 0 2) with
    | some mode => .setWires mode (a.extractLsb' 2 14) b
    | none => .illegalSetWiresMode3 (a.extractLsb' 2 14) b
  | .setThresholds => .setThresholds a b
  | .getLowerThreshold => .getLowerThreshold a b
  | .getUpperThreshold => .getUpperThreshold a b
  | .op0A0B low => .illegalOp0A0B low a b
  | .op0C0F low => .illegalOp0C0F low a b
  | .op101F low => .illegalOp101F low a b
  | .op203F low => .illegalOp203F low a b
  | .op407F low => .illegalOp407F low a b
  | .op80FF low => .illegalOp80FF low a b

/-- The instruction of a command word (R71). -/
def decodeCmd (w : CmdWord) : Instr := decodeFields (cmdOp w) (cmdA w) (cmdB w)

/-- A read frame of one response byte: the named frames of the default addresses first (opcode table). -/
def decodeRead1 (a : RegAddr) : Instr :=
  if a = 0x00#7 then .frameRdConfig else if a = 0x07#7 then .frameRdFault else .rd8 a

/-- A read frame of two response bytes. -/
def decodeRead2 (a : RegAddr) : Instr :=
  if a = 0x01#7 then .frameRdRtd
  else if a = 0x03#7 then .frameRdHthr
  else if a = 0x05#7 then .frameRdLthr
  else .rd16 a

/-- A write frame. -/
def decodeWrite (a : RegAddr) (v : Byte) : Instr :=
  if a = 0x00#7 then .frameWrConfig v
  else if a = 0x03#7 then .frameWrHthrMsb v
  else if a = 0x04#7 then .frameWrHthrLsb v
  else if a = 0x05#7 then .frameWrLthrMsb v
  else if a = 0x06#7 then .frameWrLthrLsb v
  else .wr8 a v

/-- A request on the transport port (R28, R72, R73). The second byte has no meaning but in a write. -/
def decodeTport (kind : BitVec 2) (w0 w1 : Byte) (rlen : BitVec 2) : Except Reject Instr :=
  if kind = 0#2 then
    if rlen = 0#2 then .ok .initTransport else .error .badReadLength
  else if kind = 1#2 then
    if w0.getLsbD 7 = false then .error .badAddressMark
    else if rlen = 0#2 then .ok (decodeWrite (w0.extractLsb' 0 7) w1)
    else .error .badReadLength
  else if kind = 2#2 then
    if w0.getLsbD 7 = true then .error .badAddressMark
    else if rlen = 1#2 then .ok (decodeRead1 (w0.extractLsb' 0 7))
    else if rlen = 2#2 then .ok (decodeRead2 (w0.extractLsb' 0 7))
    else .error .badReadLength
  else .error .kindNeverDriven

/-- A register word given to the codec under a layout (R76): one byte or one word. -/
def decodeCodec (sel : CodecSel) (w : Word) : Except Reject Instr :=
  match sel with
  | .config => if w.extractLsb' 8 8 = 0#8 then .ok (.configReg (w.extractLsb' 0 8)) else .error .layoutTooWide
  | .fault => if w.extractLsb' 8 8 = 0#8 then .ok (.faultReg (w.extractLsb' 0 8)) else .error .layoutTooWide
  | .rtd => .ok (.rtdWord w)
  | .threshold => .ok (.thresholdWord w)

/-- The instruction a port word stands for. Total; what is no instruction is rejected by name. -/
def decode : PortWord → Except Reject Instr
  | .cmd w => .ok (decodeCmd w)
  | .tport kind w0 w1 rlen => decodeTport kind w0 w1 rlen
  | .codec sel w => decodeCodec sel w

/-! The encoder. -/

/-- The bit of a Boolean operand (R67). -/
def boolBit (b : Bool) : BitVec 1 := BitVec.ofBool b

/-- A of a wiring-mode operand and the fourteen bits above it (R66). -/
def wireField (ignA : BitVec 14) (mode : BitVec 2) : Word := ignA ++ mode

/-- A of a Boolean operand and the fifteen bits above it (R67). -/
def boolField (ignA : BitVec 15) (on : Bool) : Word := ignA ++ boolBit on

/-- The address byte of a read frame: bit 7 cleared (R72). -/
def readByte (a : RegAddr) : Byte := 0#1 ++ a

/-- The address byte of a write frame: bit 7 set (R73). -/
def writeByte (a : RegAddr) : Byte := 1#1 ++ a

/-- A read frame on the transport port; the byte that has no meaning is given as 0. -/
def readFrame (a : RegAddr) (n : BitVec 2) : PortWord := .tport 2#2 (readByte a) 0#8 n

/-- A write frame on the transport port. -/
def writeFrame (a : RegAddr) (v : Byte) : PortWord := .tport 1#2 (writeByte a) v 0#2

/-- A one-byte register word at the codec. -/
def codecByte (c : Byte) : Word := 0#8 ++ c

/-- The word of an instruction. -/
def encode : Instr → PortWord
  | .beginCmd mode ignA ignB => .cmd (cmdWord 0x00#8 (wireField ignA (wireCode mode)) ignB)
  | .readRtd ignA ignB => .cmd (cmdWord 0x01#8 ignA ignB)
  | .readFault ignA ignB => .cmd (cmdWord 0x02#8 ignA ignB)
  | .clearFault ignA ignB => .cmd (cmdWord 0x03#8 ignA ignB)
  | .enableBias on ignA ignB => .cmd (cmdWord 0x04#8 (boolField ignA on) ignB)
  | .autoConvert on ignA ignB => .cmd (cmdWord 0x05#8 (boolField ignA on) ignB)
  | .setWires mode ignA ignB => .cmd (cmdWord 0x06#8 (wireField ignA (wireCode mode)) ignB)
  | .setThresholds lower upper => .cmd (cmdWord 0x07#8 lower upper)
  | .getLowerThreshold ignA ignB => .cmd (cmdWord 0x08#8 ignA ignB)
  | .getUpperThreshold ignA ignB => .cmd (cmdWord 0x09#8 ignA ignB)
  | .illegalBeginMode3 ignA ignB => .cmd (cmdWord 0x00#8 (wireField ignA 3#2) ignB)
  | .illegalSetWiresMode3 ignA ignB => .cmd (cmdWord 0x06#8 (wireField ignA 3#2) ignB)
  | .illegalOp0A0B low ignA ignB => .cmd (cmdWord (opcodeOf (.op0A0B low)) ignA ignB)
  | .illegalOp0C0F low ignA ignB => .cmd (cmdWord (opcodeOf (.op0C0F low)) ignA ignB)
  | .illegalOp101F low ignA ignB => .cmd (cmdWord (opcodeOf (.op101F low)) ignA ignB)
  | .illegalOp203F low ignA ignB => .cmd (cmdWord (opcodeOf (.op203F low)) ignA ignB)
  | .illegalOp407F low ignA ignB => .cmd (cmdWord (opcodeOf (.op407F low)) ignA ignB)
  | .illegalOp80FF low ignA ignB => .cmd (cmdWord (opcodeOf (.op80FF low)) ignA ignB)
  | .rd8 a => readFrame a 1#2
  | .rd16 a => readFrame a 2#2
  | .wr8 a v => writeFrame a v
  | .initTransport => .tport 0#2 0#8 0#8 0#2
  | .frameRdConfig => readFrame 0x00#7 1#2
  | .frameRdRtd => readFrame 0x01#7 2#2
  | .frameRdHthr => readFrame 0x03#7 2#2
  | .frameRdLthr => readFrame 0x05#7 2#2
  | .frameRdFault => readFrame 0x07#7 1#2
  | .frameWrConfig v => writeFrame 0x00#7 v
  | .frameWrHthrMsb v => writeFrame 0x03#7 v
  | .frameWrHthrLsb v => writeFrame 0x04#7 v
  | .frameWrLthrMsb v => writeFrame 0x05#7 v
  | .frameWrLthrLsb v => writeFrame 0x06#7 v
  | .configReg c => .codec .config (codecByte c)
  | .faultReg f => .codec .fault (codecByte f)
  | .rtdWord w => .codec .rtd w
  | .thresholdWord v => .codec .threshold v

/-! The words of the opcode table, which name no port. -/

/-- How many response bytes a bare read frame asks for: the address byte does not say (R75), so the pairs of
the default map are read as words and everything else as a byte (log 21). -/
def tableReadLength (a : Byte) : BitVec 2 :=
  if a = 0x01#8 ∨ a = 0x03#8 ∨ a = 0x05#8 then 2#2 else 1#2

/-- The port word of a table row's bits. Forty bits are a command word; sixteen a write frame (address byte
in bits 15:8, as the table numbers WR8) where bit 15 is set, else a result word; eight a read frame where
bit 7 is clear, else a configuration byte; fewer the `t_kind` of INIT's row (log 21). -/
def tablePortWord (nbits w : Nat) : PortWord :=
  if nbits ≤ 7 then .tport (BitVec.ofNat 2 w) 0#8 0#8 0#2
  else if nbits ≤ 8 then
    if (BitVec.ofNat 8 w).getLsbD 7 then .codec .config (codecByte (BitVec.ofNat 8 w))
    else .tport 2#2 (BitVec.ofNat 8 w) 0#8 (tableReadLength (BitVec.ofNat 8 w))
  else if nbits ≤ 16 then
    if (BitVec.ofNat 16 w).getLsbD 15 then
      .tport 1#2 ((BitVec.ofNat 16 w).extractLsb' 8 8) ((BitVec.ofNat 16 w).extractLsb' 0 8) 0#2
    else .codec .rtd (BitVec.ofNat 16 w)
  else .cmd (BitVec.ofNat 40 w)

/-- The instruction the decoder reads from a table row's bits. -/
def decodeTableWord (nbits w : Nat) : Option Instr :=
  match decode (tablePortWord nbits w) with
  | .ok i => some i
  | .error _ => none

end Sys2Proof
end

