-- ==== Sys2Proof/Machine/State.lean ====
section
/-! DEFINITION. The state of the machine: the sequencer (spec/10_state.md R13), its ports (R25 to R28), the
environment behind the transport (spec/20_memory.md R52 to R60), and the state after reset
(spec/70_reset_and_hazards.md R152). Plain data throughout. -/

namespace Sys2Proof.Machine

/-- Why the machine stops with a fault. -/
inductive Fault where
  /-- ENV-REF served a read or write frame before any `Init` (R60, R153, U7). Raised by every frame under
  ENV-REF. Safe: the spec's own model fault. -/
  | transportNotInitialised
  /-- A micro-step read T before an RD8 of the same command had written it (R18, U14). Raised by write data
  and by the result of READ_FAULT. Safe, and reached by no micro-program of the spec. -/
  | readUnwrittenT
  /-- A micro-step read R before an RD16 of the same command had written it (R19, U14). Safe, as above. -/
  | readUnwrittenR
  /-- A `Respond(RES)` before RES was written (R20, U14). Safe, as above. -/
  | readUnwrittenRes
  /-- The block is busy and `upc` names no entry of its micro-program: a stuck state that R17 excludes.
  Raised by the sequencer; safe, reached by no run. -/
  | upcOutsideProgram
  deriving DecidableEq, Repr

/-- Why the machine gives a step no meaning. -/
inductive Refusal where
  /-- An instruction without a meaning yet: raised by `exec`'s refused arms only. Safe. -/
  | notModelled (mnemonic : String)
  /-- A port word that the decoder rejects: a transport request the block never makes (R28, R80), or a
  register word too wide for its layout. Raised by the step. Safe. -/
  | undecodable
  /-- ENV-REF, a read outside 0x00 to 0x07 (R55, U15). Safe. -/
  | envRefReadAddress
  /-- ENV-REF, a write to anything but the configuration and the four threshold bytes (R57, U15). Safe. -/
  | envRefWriteAddress
  /-- ENV-REF, a 1-shot bit written as 1 while a conversion is pending (R56, U10). Safe. -/
  | envRefOneShotWhilePending
  /-- ENV-REF, a frame on a transport whose open handshake a reset has dropped (R156, U8). Safe. -/
  | transportDropped
  deriving DecidableEq, Repr

/-- The five states of the conversion state machine (R23, R130). -/
inductive Phase where
  | idle
  | biasing
  | readyToTrigger
  | converting
  | resultAvailable
  deriving DecidableEq, Repr

/-- `rsp_status` (R13, R22): 0 = OK, 1 = ILLEGAL. -/
inductive RspStatus where
  | ok
  | illegal
  deriving DecidableEq, Repr

/-- The sequencer's registers (R13). The three `Live` bits say whether T, R, RES have been written since
the command was accepted (R18, R19, 92 D28; log 9). -/
structure Seq where
  busy : Bool
  op : Byte
  /-- The register A. -/
  a : Word
  /-- The register B. -/
  b : Word
  upc : BitVec 4
  /-- The register T. -/
  t : Byte
  tLive : Bool
  /-- The register R. -/
  r : Word
  rLive : Bool
  /-- The register RES. -/
  res : Word
  resLive : Bool
  /-- The register TMR, a count below `2 ^ TIMER_W` (log 23). -/
  tmr : Nat
  phase : Phase
  rspValid : Bool
  rspData : Word
  rspStatus : RspStatus
  deriving DecidableEq, Repr

/-- The sequencer after reset (R34, R152). -/
def Seq.reset : Seq where
  busy := false
  op := 0#8
  a := 0#16
  b := 0#16
  upc := 0#4
  t := 0#8
  tLive := false
  r := 0#16
  rLive := false
  res := 0#16
  resLive := false
  tmr := 0
  phase := .idle
  rspValid := false
  rspData := 0#16
  rspStatus := .ok

/-- The outputs of the transport port (R28). -/
structure TPort where
  tReq : Bool
  tKind : BitVec 2
  tW0 : Byte
  tW1 : Byte
  tRlen : BitVec 2
  deriving DecidableEq, Repr

/-- The transport port after reset (R152). -/
def TPort.reset : TPort where
  tReq := false
  tKind := 0#2
  tW0 := 0#8
  tW1 := 0#8
  tRlen := 0#2

/-- What the transport answers to one handshake (R28): `t_done` after `duration` ticks with the bytes
`t_r0`, `t_r1`, or never (R138). -/
structure Answer where
  duration : Option Nat
  r0 : Byte
  r1 : Byte
  deriving DecidableEq, Repr

/-- The entries of the event history (R52). -/
inductive EventKind where
  | init
  | write (b0 b1 : Byte)
  | writeThenRead (a : Byte) (n : Nat) (bytes : List Byte)
  | delayElapsed (n : Nat)
  | response (d : Word) (status : RspStatus)
  deriving DecidableEq, Repr

/-- An event 'with the now at which it began and ended' (R52). -/
structure Event where
  what : EventKind
  began : Nat
  ended : Nat
  deriving DecidableEq, Repr

/-- What stands behind the transport (R52, R53). -/
inductive EnvKind where
  | oracle
  | envRef
  deriving DecidableEq, Repr

/-- Whether the transport has been initialised (R53, R60, R152), or was left by a dropped handshake
(R156). A further reset takes dropped to uninitialised (log 36). -/
inductive TransportState where
  | uninitialised
  | ready
  | dropped
  deriving DecidableEq, Repr

/-- ENV-REF's validity bookkeeping (R58), read by no operation (log 17). Its times are ticks of `now`, and integers,
since a time before the last reset is negative (R9, log 19). -/
structure Ghost where
  /-- The time `bias_on`. -/
  biasOn : Option Int
  /-- The time `trig`. -/
  trig : Option Int
  /-- Whether the last 1-shot write came late enough after `bias_on`, with the bias bit still set. -/
  trigSettled : Bool
  /-- When the last conversion completes. -/
  completion : Option Int
  /-- Whether the last result read was valid. -/
  resultValid : Bool
  deriving DecidableEq, Repr

/-- The chip's register space: (address, byte) pairs in one canonical form, addresses strictly rising. An
unlisted address holds no written byte; what it reads as is a free value (R154, log 8). -/
abbrev Memory := List Host.Cell

/-- The environment: time, transport, chip (R9, R10, R52, R53), and the scripts of what it chooses (log 4). -/
structure Env where
  kind : EnvKind
  /-- `now` (R9): ticks since reset. -/
  now : Nat
  /-- `tinit` (R53). -/
  transport : TransportState
  /-- `creg` (R53). -/
  mem : Memory
  /-- How often the contents of the chip became unspecified by a reset while busy (R156). -/
  epoch : Nat
  /-- `pending` (R53): the completion time and the word of a conversion in progress. -/
  pending : Option (Nat × Word)
  ghost : Ghost
  /-- `H` (R52), oldest first. -/
  history : List Event
  /-- The transport's next answers; when empty, free values. -/
  answers : List Answer
  /-- The durations of the next micro-steps without transport activity or delay; when empty, free values. -/
  lags : List Nat
  /-- ENV-REF's next draws for a conversion: duration and measurement (R56); when empty, free values. -/
  conversions : List (Nat × Word)
  /-- Fault bits injected before the next operations, one entry an operation (R59); when empty, none. -/
  injections : List Byte
  /-- The counter the free values of transport operations are applied to. -/
  draws : Nat
  /-- The counter the free durations of the other micro-steps are applied to. -/
  lagDraws : Nat
  deriving DecidableEq, Repr

/-- No bookkeeping yet. -/
def Ghost.none : Ghost where
  biasOn := Option.none
  trig := Option.none
  trigSettled := false
  completion := Option.none
  resultValid := false

/-- The environment when the machine starts: the transport uninitialised (R152), the chip unspecified
(R154). DESIGN CHOICE (log 3, 29): the oracle, with no script. -/
def Env.start : Env where
  kind := .oracle
  now := 0
  transport := .uninitialised
  mem := []
  epoch := 0
  pending := none
  ghost := Ghost.none
  history := []
  answers := []
  lags := []
  conversions := []
  injections := []
  draws := 0
  lagDraws := 0

/-- What the host does next on the command port (R25, R26): it presents a word and holds it until it is
taken, or leaves the port idle. -/
inductive HostAction where
  | present (w : CmdWord)
  | wait (ticks : Nat)
  deriving DecidableEq, Repr

/-- How much one step of an accepted command does (log 1): all of it, one micro-step (R96), or one edge of
the handshake or tick of the timer (R28, R101). -/
inductive Grain where
  | command
  | micro
  | edge
  deriving DecidableEq, Repr

/-- The seven fields of a configuration byte (R81, R82). -/
structure CfgFields where
  bias : Bool
  auto : Bool
  oneshot : Bool
  wire3 : Bool
  fcycle : BitVec 2
  fclr : Bool
  filt : Bool
  deriving DecidableEq, Repr

/-- The fields of a fault-status byte (R86, R87); `rsvd` stands at its own bit positions. -/
structure FaultFields where
  highThr : Bool
  lowThr : Bool
  refInLow : Bool
  refInHigh : Bool
  rtdInLow : Bool
  ovUv : Bool
  rsvd : Byte
  deriving DecidableEq, Repr

/-- What the codec shows: the fields of the last register word it was given (log 20). -/
inductive CodecOut where
  | nothing
  | config (f : CfgFields)
  | fault (f : FaultFields)
  | rtd (code : Word) (fault : Bool)
  | threshold (lo hi : Byte)
  deriving DecidableEq, Repr

end Sys2Proof.Machine

namespace Sys2Proof.Machine

/-- The state of the machine. -/
structure State where
  /-- The parameters (R6), constant (R157). -/
  cfg : Config
  grain : Grain
  /-- The input `rst` (R151). -/
  rst : Bool
  seq : Seq
  port : TPort
  env : Env
  /-- The command port: `cmd_valid` and `cmd_word` are its head (R25). -/
  host : List HostAction
  /-- The codec's input. -/
  codecIn : Option (CodecSel × Word)
  /-- The codec's output. -/
  codecOut : CodecOut
  deriving DecidableEq, Repr

/-- The machine right after reset (R152). DESIGN CHOICE (log 1, 3, 6, 29): the grain, the environment and
`BIAS_NORMALLY_OFF`, which the spec leaves open. -/
def State.reset : State where
  cfg := Config.defaults true
  grain := .command
  rst := false
  seq := Seq.reset
  port := TPort.reset
  env := Env.start
  host := []
  codecIn := none
  codecOut := .nothing

/-- `cmd_ready = not busy` (R25). -/
def State.cmdReady (s : State) : Bool := !s.seq.busy

/-- Idle: no command in execution and no handshake open. -/
def State.isIdle (s : State) : Bool := !s.seq.busy && !s.port.tReq

/-- `phase` as the port encodes it (R23). -/
def Phase.code : Phase → BitVec 3
  | .idle => 0#3
  | .biasing => 1#3
  | .readyToTrigger => 2#3
  | .converting => 3#3
  | .resultAvailable => 4#3

/-- `rsp_status` as the port encodes it (R22). -/
def RspStatus.code : RspStatus → BitVec 1
  | .ok => 0#1
  | .illegal => 1#1

/-- The state with another sequencer. -/
def State.setSeq (s : State) (q : Seq) : State := { s with seq := q }

/-- The state with another transport port. -/
def State.setPort (s : State) (p : TPort) : State := { s with port := p }

/-- The state with another environment. -/
def State.setEnv (s : State) (e : Env) : State := { s with env := e }

/-- The state with another rest of the host's actions. -/
def State.setHost (s : State) (h : List HostAction) : State := { s with host := h }

/-- The state with the reset input low. -/
def State.clearRst (s : State) : State := { s with rst := false }

/-- The state with the codec's input taken and its output shown. -/
def State.setCodec (s : State) (o : CodecOut) : State := { s with codecIn := none, codecOut := o }

end Sys2Proof.Machine
end

