-- ==== Sys2Proof/Machine/Codec.lean ====
section
/-! DEFINITION. The register bit-field codec: the twelve functions of spec/40_codec.md, pure functions of
their inputs. -/

namespace Sys2Proof.Machine

/-- `lowbit(m)`: the index of the least significant set bit (R82). -/
def lowbit (m : Byte) : Nat := ((List.range 8).find? fun k => m.getLsbD k).getD 0

/-- `(c & m) != 0`. -/
def hasBit (c m : Byte) : Bool := c &&& m != 0#8

/-- `b ? m : 0`. -/
def maskIf (b : Bool) (m : Byte) : Byte := if b then m else 0#8

/-- CFG_UNPACK (R82). -/
def cfgUnpack (cfg : Config) (c : Byte) : CfgFields where
  bias := hasBit c cfg.mBias
  auto := hasBit c cfg.mAuto
  oneshot := hasBit c cfg.m1Shot
  wire3 := hasBit c cfg.m3Wire
  fcycle := ((c &&& cfg.mFcycle) >>> lowbit cfg.mFcycle).setWidth 2
  fclr := hasBit c cfg.mFclr
  filt := hasBit c cfg.mFilt

/-- CFG_PACK (R83). -/
def cfgPack (cfg : Config) (f : CfgFields) : Byte :=
  maskIf f.bias cfg.mBias ||| maskIf f.auto cfg.mAuto ||| maskIf f.oneshot cfg.m1Shot
    ||| maskIf f.wire3 cfg.m3Wire ||| (f.fcycle.setWidth 8 <<< lowbit cfg.mFcycle)
    ||| maskIf f.fclr cfg.mFclr ||| maskIf f.filt cfg.mFilt

/-- CFG_SET (R85). -/
def cfgSet (t m : Byte) : Byte := t ||| m

/-- CFG_CLR (R85). -/
def cfgClr (t m : Byte) : Byte := t &&& ~~~m

/-- The union of the six fault masks. -/
def faultUnion (cfg : Config) : Byte :=
  cfg.fHighThr ||| cfg.fLowThr ||| cfg.fRefInLow ||| cfg.fRefInHigh ||| cfg.fRtdInLow ||| cfg.fOvUv

/-- FAULT_UNPACK (R87). -/
def faultUnpack (cfg : Config) (f : Byte) : FaultFields where
  highThr := hasBit f cfg.fHighThr
  lowThr := hasBit f cfg.fLowThr
  refInLow := hasBit f cfg.fRefInLow
  refInHigh := hasBit f cfg.fRefInHigh
  rtdInLow := hasBit f cfg.fRtdInLow
  ovUv := hasBit f cfg.fOvUv
  rsvd := f &&& ~~~faultUnion cfg

/-- FAULT_PACK (R88). -/
def faultPack (cfg : Config) (f : FaultFields) : Byte :=
  maskIf f.highThr cfg.fHighThr ||| maskIf f.lowThr cfg.fLowThr ||| maskIf f.refInLow cfg.fRefInLow
    ||| maskIf f.refInHigh cfg.fRefInHigh ||| maskIf f.rtdInLow cfg.fRtdInLow
    ||| maskIf f.ovUv cfg.fOvUv ||| f.rsvd

/-- RTD_SPLIT, the resistance code (R89). -/
def rtdCode (w : Word) : Word := w >>> 1

/-- RTD_SPLIT, the fault flag (R89). -/
def rtdFault (w : Word) : Bool := w.getLsbD 0

/-- WORD_JOIN (R90): the first byte received is the most significant. -/
def wordJoin (b0 b1 : Byte) : Word := (b0.setWidth 16 <<< 8) ||| b1.setWidth 16

/-- THR_SPLIT, the low byte (R91). -/
def thrLo (v : Word) : Byte := v.extractLsb' 0 8

/-- THR_SPLIT, the high byte (R91). -/
def thrHi (v : Word) : Byte := v.extractLsb' 8 8

/-- ADDR_RD (R92). -/
def addrRd (a : Byte) : Byte := a &&& 0x7F#8

/-- ADDR_WR (R93). -/
def addrWr (a : Byte) : Byte := a ||| Config.writeMark

/-- WIRE_BIT (R95). -/
def wireBit (cfg : Config) (mode : WireMode) (t : Byte) : Byte :=
  match mode with
  | .three => cfgSet t cfg.m3Wire
  | .two => cfgClr t cfg.m3Wire
  | .four => cfgClr t cfg.m3Wire

/-- The modification a Boolean operand asks for (R108, R109). -/
def boolBitMod (on : Bool) (m t : Byte) : Byte := if on then cfgSet t m else cfgClr t m

/-- The byte CLEAR_FAULT writes for the byte it read (R117). -/
def clearFaultByte (cfg : Config) (t : Byte) : Byte :=
  cfgSet (cfgClr t cfg.clearFaultClearMask) cfg.mFclr

end Sys2Proof.Machine
end

