-- ==== Sys2Proof/Machine/Flags.lean ====
section
/-! DEFINITION. The flag-like state of the block (spec/10_state.md R29): `busy`, `phase`, the response
flags, the liveness of T, R and RES, and how acceptance, the end of a micro-step and the response set
them. The block has no condition codes. -/

namespace Sys2Proof.Machine

/-- The opcode of READ_RTD, the one command that changes `phase` (R23, R64). -/
def readRtdOp : Byte := 0x01#8

/-- The opcode of the command in execution is READ_RTD's. -/
def Seq.inReadRtd (q : Seq) : Bool := q.busy && q.op == readRtdOp

/-- `phase` when entry `upc` of READ_RTD ends (the table of R121). -/
def phaseAfter (bno : Bool) (upc : BitVec 4) (p : Phase) : Phase :=
  if upc = 0#4 then (if bno then .idle else .readyToTrigger)
  else if upc = 2#4 then .biasing
  else if upc = 3#4 then .readyToTrigger
  else if upc = 5#4 then .converting
  else if upc = 6#4 then .resultAvailable
  else p

/-- `phase` when the current micro-step ends: only READ_RTD changes it (R23). -/
def Seq.phaseNext (bno : Bool) (q : Seq) : Phase :=
  if q.inReadRtd then phaseAfter bno q.upc q.phase else q.phase

/-- The end of a micro-step that is neither a skip nor a response: `upc <- upc + 1` (R17). -/
def Seq.finish (bno : Bool) (q : Seq) : Seq :=
  { q with upc := q.upc + 1#4, phase := q.phaseNext bno }

/-- A conditional skip (R131): `upc` takes a fixed index. -/
def Seq.jump (bno : Bool) (target : BitVec 4) (q : Seq) : Seq :=
  { q with upc := target, phase := q.phaseNext bno }

/-- Command acceptance (R26). T, R and RES keep their values and are dead (R18, R19). -/
def Seq.accept (op : Byte) (a b : Word) (q : Seq) : Seq :=
  { q with
    op := op, a := a, b := b, upc := 0#4, busy := true, rspValid := false
    tLive := false, rLive := false, resLive := false }

/-- RES takes a word (R20). -/
def Seq.loadRes (v : Word) (q : Seq) : Seq := { q with res := v, resLive := true }

/-- RES at the response: 'the value Respond presents', 0 for the commands that form no result (R20); an illegal
word changes nothing of it (R139). DEDUCED (log 10). -/
def Seq.presentRes (d : Word) : RspStatus → Seq → Seq
  | .ok, q => q.loadRes d
  | .illegal, q => q

/-- `Respond(d)` (R22), with `rsp_status` = 1 for an illegal word (R139). -/
def Seq.respond (d : Word) (status : RspStatus) (q : Seq) : Seq :=
  { q.presentRes d status with
    rspData := d, rspStatus := status, rspValid := true, busy := false, upc := 0#4, phase := .idle }

/-- T takes a byte (R98). -/
def Seq.loadT (v : Byte) (q : Seq) : Seq := { q with t := v, tLive := true }

/-- R takes a word (R99). -/
def Seq.loadR (v : Word) (q : Seq) : Seq := { q with r := v, rLive := true }

/-- TMR takes a count (R101). -/
def Seq.setTmr (n : Nat) (q : Seq) : Seq := { q with tmr := n }

end Sys2Proof.Machine
end

