-- ==== Sys2Proof/Machine/Ops.lean ====
section
/-! DEFINITION. The shared operations: the chip's register space, the two environments behind the transport
(spec/20_memory.md R52 to R60), one transport operation (spec/41_bus_primitives.md R96 to R100), the delay
(R101), acceptance, response and reset. The block has no trap: no exception is taken and none is returned
from (spec/60_exceptions.md R136, R143, R144). What an illegal word gets is a response (R139). -/

namespace Sys2Proof.Machine

/-! ## The register space -/

/-- The byte written last at an address, if any. -/
def Memory.read : Memory → Nat → Option Byte
  | [], _ => none
  | (k, v) :: rest, a => if a = k then some v else Memory.read rest a

/-- Writes one byte and keeps the addresses strictly rising. -/
def Memory.write : Memory → Nat → Byte → Memory
  | [], a, v => [(a, v)]
  | (k, u) :: rest, a, v =>
    if a < k then (a, v) :: (k, u) :: rest
    else if a = k then (a, v) :: rest
    else (k, u) :: Memory.write rest a v

/-- All addresses are above `lo`. -/
def Memory.above (lo : Nat) (m : Memory) : Bool := m.all fun c => lo < c.1

/-- The canonical form: addresses strictly rising, all in the byte that carries an address. No entry can
equal what an unlisted address reads as, since an unlisted address holds no written byte. -/
def Memory.wf : Memory → Bool
  | [] => true
  | (k, _) :: rest => decide (k < 256) && Memory.above k rest && Memory.wf rest

/-- `creg[a]` (R53): the byte written last, else the chip's unspecified content (R154, R156). -/
def Env.creg (e : Env) (a : Byte) : Byte :=
  (Memory.read e.mem a.toNat).getD (Config.freeChipByte e.epoch a.toNat)

/-- `creg[a] <- v`. -/
def Env.setCreg (a v : Byte) (e : Env) : Env := { e with mem := Memory.write e.mem a.toNat v }

/-! ## Draws of the environment (log 4, 5, 27) -/

/-- The transport's answer to the `k`-th operation from now: what the script says, and past its end free
values. -/
def Env.answerAt (e : Env) (k : Nat) : Answer :=
  (e.answers[k]?).getD
    ⟨some (Config.freeDuration (e.draws + k)), Config.freeByte0 (e.draws + k), Config.freeByte1 (e.draws + k)⟩

/-- The transport's answer to the open handshake. -/
def Env.answer (e : Env) : Answer := e.answerAt 0

/-- The duration of the `k`-th micro-step from now that has neither transport activity nor delay (R9). -/
def Env.lagAt (e : Env) (k : Nat) : Nat := (e.lags[k]?).getD (Config.freeLag (e.lagDraws + k))

/-- Such a micro-step ends: time passes. -/
def Env.elapseLag (e : Env) : Env :=
  { e with now := e.now + e.lagAt 0, lags := e.lags.tail, lagDraws := e.lagDraws + 1 }

/-- Folds a natural number into `1..CONV_TICKS` and leaves those numbers alone (R56). -/
def foldConversionTicks (cfg : Config) (raw : Nat) : Nat := (raw - 1) % cfg.convTicks + 1

/-- ENV-REF's draw for a conversion: its duration and the measurement (R56). -/
def Env.conversion (cfg : Config) (e : Env) : Nat × Word :=
  match e.conversions with
  | (d, w) :: _ => (foldConversionTicks cfg d, w)
  | [] => (foldConversionTicks cfg (Config.freeConversionTicks e.draws), Config.freeMeasurement e.draws)

/-! ## ENV-REF -/

/-- `InjectFault(m)` (R59). -/
def Env.injectFault (cfg : Config) (m : Byte) (e : Env) : Env :=
  e.setCreg cfg.aFault (e.creg cfg.aFault ||| m)

/-- What the environment injects before the operation at hand (R59). -/
def Env.injectNext (cfg : Config) (e : Env) : Env :=
  match e.injections with
  | m :: rest => { e.injectFault cfg m with injections := rest }
  | [] => e

/-- A conversion completes (R54): the result appears and the 1-shot bit clears itself. -/
def Env.completeConversion (cfg : Config) (w : Word) (e : Env) : Env :=
  let e1 := (e.setCreg cfg.aRtdMsb (thrHi w)).setCreg cfg.aRtdLsb (thrLo w)
  { e1.setCreg cfg.aConfig (cfgClr (e1.creg cfg.aConfig) cfg.m1Shot) with pending := none }

/-- Settling before an operation that begins at `time` (R54). -/
def Env.settle (cfg : Config) (time : Nat) (e : Env) : Env :=
  match e.pending with
  | some (c, w) => if c ≤ time then e.completeConversion cfg w else e
  | none => e

/-- What ENV-REF stores for a configuration write (R56): a fault-clear write resets the clear bit and the
fault-cycle bits. -/
def storedConfig (cfg : Config) (v : Byte) : Byte :=
  if hasBit v cfg.mFclr then cfgClr (cfgClr v cfg.mFclr) cfg.mFcycle else v

/-- Bookkeeping of a configuration write ending at `ended` (R58): `bias_on` where the bias bit turns from 0
to 1, or is first seen set; `trig` and whether bias had settled, where the 1-shot bit is written (log 17). -/
def Env.noteConfigWrite (cfg : Config) (v : Byte) (ended : Nat) (e : Env) : Env :=
  let turnsOn := hasBit v cfg.mBias && (!hasBit (e.creg cfg.aConfig) cfg.mBias || e.ghost.biasOn.isNone)
  let biasOn := if turnsOn then some (ended : Int) else e.ghost.biasOn
  let settled := hasBit v cfg.mBias && (biasOn.any fun b => b + (cfg.settleTicks : Int) ≤ (ended : Int))
  { e with
    ghost :=
      if hasBit v cfg.m1Shot then
        { e.ghost with biasOn := biasOn, trig := some (ended : Int), trigSettled := settled }
      else { e.ghost with biasOn := biasOn } }

/-- Bookkeeping of a result read that began at `began` (R58). -/
def Env.noteResultRead (began : Nat) (e : Env) : Env :=
  { e with
    ghost := { e.ghost with
      resultValid := e.ghost.trigSettled && (e.ghost.completion.any fun c => c ≤ (began : Int)) } }

/-- A conversion starts with a write that ended at `ended` (R56). -/
def Env.startConversion (cfg : Config) (ended : Nat) (e : Env) : Env :=
  { e with
    pending := some (ended + (e.conversion cfg).1, (e.conversion cfg).2)
    conversions := e.conversions.tail
    ghost := { e.ghost with completion := some ((ended + (e.conversion cfg).1 : Nat) : Int) } }

/-- What the environment hands back: itself and the bytes read. -/
structure Served where
  env : Env
  r0 : Byte
  r1 : Byte
  deriving DecidableEq, Repr

/-- ENV-REF's fault-clear effect (R56): the fault status becomes 0. -/
def Env.clearFaultStatus (cfg : Config) (v : Byte) (e : Env) : Env :=
  if hasBit v cfg.mFclr then e.setCreg cfg.aFault 0x00#8 else e

/-- ENV-REF, a write of `v` to the configuration register ending at `ended` (R56). -/
def refWriteConfig (cfg : Config) (v : Byte) (ended : Nat) (e : Env) : Host.Outcome Served Fault Refusal :=
  let e1 := ((e.noteConfigWrite cfg v ended).clearFaultStatus cfg v).setCreg cfg.aConfig (storedConfig cfg v)
  if hasBit v cfg.m1Shot then
    if e.pending.isSome then .refused .envRefOneShotWhilePending
    else .next ⟨e1.startConversion cfg ended, 0#8, 0#8⟩
  else .next ⟨e1, 0#8, 0#8⟩

/-- The four threshold bytes (R32, R57). -/
def isThresholdAddr (cfg : Config) (a : Byte) : Bool :=
  a == cfg.aLthrLsb || a == cfg.aLthrMsb || a == cfg.aHthrLsb || a == cfg.aHthrMsb

/-- ENV-REF, a write ending at `ended` (R56, R57). -/
def refWrite (cfg : Config) (a v : Byte) (ended : Nat) (e : Env) : Host.Outcome Served Fault Refusal :=
  if 0x07 < a.toNat then .refused .envRefWriteAddress
  else if a = cfg.aConfig then refWriteConfig cfg v ended e
  else if isThresholdAddr cfg a then .next ⟨e.setCreg a v, 0#8, 0#8⟩
  else .refused .envRefWriteAddress

/-- ENV-REF, a read of one byte (R55). -/
def refRead1 (a : Byte) (e : Env) : Host.Outcome Served Fault Refusal :=
  if a.toNat ≤ 0x07 then .next ⟨e, e.creg a, 0#8⟩ else .refused .envRefReadAddress

/-- ENV-REF, a read of two bytes that began at `began` (R44, R55). -/
def refRead2 (cfg : Config) (a : Byte) (began : Nat) (e : Env) : Host.Outcome Served Fault Refusal :=
  if a.toNat + 1 ≤ 0x07 then
    .next ⟨if a = cfg.aRtdMsb then e.noteResultRead began else e, e.creg a, e.creg (a + 1#8)⟩
  else .refused .envRefReadAddress

/-- One transport operation, by what it asks for (R28). -/
inductive Frame where
  | init
  | read1 (a : Byte)
  | read2 (a : Byte)
  | write (a v : Byte)
  deriving DecidableEq, Repr

/-- ENV-REF serves a frame of an initialised transport, after settling. -/
def refFrame (cfg : Config) (f : Frame) (d : Nat) (e : Env) : Host.Outcome Served Fault Refusal :=
  match f with
  | .init => .next ⟨{ e with transport := .ready }, 0#8, 0#8⟩
  | .read1 a => refRead1 (addrRd a) e
  | .read2 a => refRead2 cfg (addrRd a) e.now e
  | .write a v => refWrite cfg (addrRd a) v (e.now + d) e

/-- ENV-REF, the operation at hand, lasting `d` ticks: injection, settling, then the operation; a frame other
than `Init` needs an initialised transport (R54 to R60). -/
def refServe (cfg : Config) (f : Frame) (d : Nat) (e : Env) : Host.Outcome Served Fault Refusal :=
  let e1 := (e.injectNext cfg).settle cfg e.now
  match f, e.transport with
  | .init, _ => refFrame cfg f d e1
  | _, .ready => refFrame cfg f d e1
  | _, .uninitialised => .fault .transportNotInitialised
  | _, .dropped => .refused .transportDropped

/-- The oracle: every operation returns, a read returns the answer's bytes (R52). -/
def oracleServe (f : Frame) (ans : Answer) (e : Env) : Host.Outcome Served Fault Refusal :=
  match f with
  | .init => .next ⟨{ e with transport := .ready }, ans.r0, ans.r1⟩
  | .read1 _ | .read2 _ | .write _ _ => .next ⟨e, ans.r0, ans.r1⟩

/-- The history entry of an operation (R52), with the bytes as they cross the port. -/
def frameEvent (f : Frame) (r0 r1 : Byte) : EventKind :=
  match f with
  | .init => .init
  | .read1 a => .writeThenRead (addrRd a) 1 [r0]
  | .read2 a => .writeThenRead (addrRd a) 2 [r0, r1]
  | .write a v => .write (addrWr a) v

/-- An event is recorded (R52). -/
def Env.record (k : EventKind) (began : Nat) (e : Env) : Env :=
  { e with history := e.history ++ [⟨k, began, e.now⟩] }

/-- An operation has returned after `d` ticks: time passes, its answer is used up, its event recorded. -/
def Env.account (f : Frame) (r0 r1 : Byte) (d : Nat) (e : Env) : Env :=
  Env.record (frameEvent f r0 r1) e.now
    { e with now := e.now + d, answers := e.answers.tail, draws := e.draws + 1 }

/-- The environment serves one operation that takes `d` ticks. -/
def serve (cfg : Config) (f : Frame) (ans : Answer) (d : Nat) (e : Env) : Host.Outcome Served Fault Refusal :=
  match (match e.kind with
    | .oracle => oracleServe f ans e
    | .envRef => refServe cfg f d e) with
  | .next sv => .next { sv with env := sv.env.account f sv.r0 sv.r1 d }
  | .fault x => .fault x
  | .refused x => .refused x

/-! ## The transport port -/

/-- A byte of the port that the request gives no meaning: held while a handshake is open, else free (R28,
log 12). -/
def undriven (s : State) (held : Byte) (key : Nat) : Byte :=
  if s.port.tReq then held else Config.freeUndriven key

/-- The sequencer raises `t_req` with the request's outputs (R28, R97 to R100). -/
def openHandshake (f : Frame) (s : State) : State :=
  s.setPort
    (match f with
    | .init => ⟨true, 0#2, undriven s s.port.tW0 (2 * s.env.draws), undriven s s.port.tW1 (2 * s.env.draws + 1), 0#2⟩
    | .write a v => ⟨true, 1#2, addrWr a, v, 0#2⟩
    | .read1 a => ⟨true, 2#2, addrRd a, undriven s s.port.tW1 (2 * s.env.draws), 1#2⟩
    | .read2 a => ⟨true, 2#2, addrRd a, undriven s s.port.tW1 (2 * s.env.draws), 2#2⟩)

/-- What the sequencer takes from the answer (R98, R99): RD8 loads T, RD16 loads R. -/
def takeBytes (f : Frame) (r0 r1 : Byte) (q : Seq) : Seq :=
  match f with
  | .init => q
  | .read1 _ => q.loadT r0
  | .read2 _ => q.loadR (wordJoin r0 r1)
  | .write _ _ => q

/-- `t_done`: `t_req` falls, the bytes are sampled, the micro-step ends (R28). -/
def closeHandshake (f : Frame) (sv : Served) (s : State) : State :=
  { s with
    seq := (takeBytes f sv.r0 sv.r1 s.seq).finish s.cfg.biasNormallyOff
    port := { s.port with tReq := false }
    env := sv.env }

/-- A tick passes and nothing else: an open handshake without `t_done` (R138), or an idle block. -/
def tick (s : State) : State := s.setEnv { s.env with now := s.env.now + 1 }

/-- A request the environment serves: its answer closes the handshake, and without one the handshake stays open
(R28, R104, R138; log 13). -/
def answerRequest (f : Frame) (sv : Served) (s : State) : State :=
  match s.env.answer.duration with
  | some _ => closeHandshake f sv s
  | none => tick s

/-- One transport micro-operation (R96): the request, and the answer if there is one. ENV-REF finds fault with a
frame on an uninitialised transport at the request, answered or not (R60, 95 P4). DESIGN CHOICE (log 13): so it
does with every request it refuses; whether it stops does not depend on the duration `serve` is given. -/
def transact (f : Frame) (s : State) : Host.Outcome State Fault Refusal :=
  let s1 := openHandshake f s
  match serve s.cfg f s1.env.answer (s1.env.answer.duration.getD 0) s1.env with
  | .next sv => .next (answerRequest f sv s1)
  | .fault x => .fault x
  | .refused x => .refused x

/-! ## Micro-steps without transport activity -/

/-- The delay has elapsed (R101): TMR is 0 and the micro-step ends; the delay of `n` ticks is recorded. -/
def endDelay (n : Nat) (s : State) : State :=
  { s with
    seq := (s.seq.setTmr 0).finish s.cfg.biasNormallyOff
    env := s.env.record (.delayElapsed n) (s.env.now - n) }

/-- How much of a delay of `n` ticks is left: all of it until TMR is loaded. -/
def delayLeft (n : Nat) (s : State) : Nat := if s.seq.tmr = 0 then n else s.seq.tmr

/-- `DLY n` as one micro-step (R101, R96): exactly `n` ticks. -/
def delay (n : Nat) (s : State) : State :=
  endDelay n (s.setEnv { s.env with now := s.env.now + delayLeft n s })

/-- One edge of `DLY n` (R101): TMR is loaded at entry, then counts down one a tick and stops at 0. -/
def delayEdge (n : Nat) (s : State) : State :=
  if s.seq.tmr = 0 then
    if n = 0 then endDelay n s else s.setSeq (s.seq.setTmr n)
  else if s.seq.tmr = 1 then endDelay n (tick s)
  else (tick s).setSeq (s.seq.setTmr (s.seq.tmr - 1))

/-- `RES <- v` (R20, R121 index 8). -/
def setResult (v : Word) (s : State) : State :=
  { s with seq := (s.seq.loadRes v).finish s.cfg.biasNormallyOff, env := s.env.elapseLag }

/-- `if BNO then upc <- x else upc <- y` (R131). -/
def skip (ifBno ifNot : BitVec 4) (s : State) : State :=
  { s with
    seq := s.seq.jump s.cfg.biasNormallyOff (if s.cfg.biasNormallyOff then ifBno else ifNot)
    env := s.env.elapseLag }

/-- `Respond(d)` (R22). -/
def respond (d : Word) (status : RspStatus) (s : State) : State :=
  { s with
    seq := s.seq.respond d status
    env := s.env.elapseLag.record (.response d status) s.env.now }

/-- Command acceptance (R26). -/
def accept (op : Byte) (a b : Word) (s : State) : State := s.setSeq (s.seq.accept op a b)

/-! ## Reset and the host -/

/-- An open handshake is dropped (R156): its operation never happens and its answer is never given, so the next
operation draws another. DESIGN CHOICE (log 18). -/
def Env.dropHandshake (tReq : Bool) (e : Env) : Env :=
  if tReq then { e with answers := e.answers.tail, draws := e.draws + 1 } else e

/-- The chip's contents, its conversion in progress and the transport become unspecified (R156). DESIGN CHOICE
(log 18): so does the validity bookkeeping of R58, which forgets all it had noted. -/
def Env.unspecify (e : Env) : Env :=
  { e with
    transport := .dropped
    mem := []
    epoch := e.epoch + 1
    pending := Config.freePending (e.epoch + 1)
    ghost := Ghost.none }

/-- The bookkeeping's times, counted from `n` ticks later. -/
def Ghost.shift (n : Nat) (g : Ghost) : Ghost :=
  { g with
    biasOn := g.biasOn.map fun b => b - (n : Int)
    trig := g.trig.map fun b => b - (n : Int)
    completion := g.completion.map fun b => b - (n : Int) }

/-- `now` counts ticks since reset (R9), so a reset sets it to 0. The times the environment still needs, of the
conversion in progress and of the bookkeeping, count from the new zero; a conversion already due is due at 0.
DESIGN CHOICE (log 19): the times of events already recorded stand. -/
def Env.restartClock (e : Env) : Env :=
  { e with
    now := 0
    pending := e.pending.map fun p => (p.1 - e.now, p.2)
    ghost := e.ghost.shift e.now }

/-- What a reset of the block does to the environment: time starts again (R9). Of an idle block: the transport is
uninitialised until the next INIT and the chip is not touched (R152). While busy, or with a handshake open: the
handshake is dropped and transport and chip are unspecified (R156; log 18). DESIGN CHOICE (log 36): the reset of an
idle block whose transport an earlier reset has left unspecified makes it uninitialised too (R152), where R156 keeps
it unspecified until the next BEGIN. -/
def Env.afterReset (busy tReq : Bool) (e : Env) : Env :=
  if busy || tReq then (e.dropHandshake tReq).restartClock.unspecify
  else { e.restartClock with transport := .uninitialised }

/-- The edge at which `rst` is 1 (R151, R152, R156). -/
def applyReset (s : State) : State :=
  { s with
    rst := false, seq := Seq.reset, port := TPort.reset, env := s.env.afterReset s.seq.busy s.port.tReq }

/-- The host leaves the command port idle for `n` ticks. -/
def hostWait (n : Nat) (rest : List HostAction) (s : State) : State :=
  (s.setHost rest).setEnv { s.env with now := s.env.now + n }

end Sys2Proof.Machine
end

