-- ==== Sys2Proof/Machine/Operands.lean ====
section
/-! DEFINITION. The operand forms of the micro-programs: the entries of a micro-program (spec/
41_bus_primitives.md R96), the write-data expressions over T, A, B and the masks (R100), the sources of RES
(spec/10_state.md R20) and of the response. -/

namespace Sys2Proof.Machine

/-- Write data (R100): 'an expression over T, A, B and the mask parameters'. -/
inductive WrData where
  /-- A constant byte. -/
  | lit (v : Byte)
  /-- `CFG_SET(T, m)`. -/
  | setT (m : Byte)
  /-- `CFG_CLR(T, m)`. -/
  | clrT (m : Byte)
  /-- `WIRE_BIT(mode)(T)`. -/
  | wireT (mode : WireMode)
  /-- `CFG_SET(CFG_CLR(T, CLEARFAULT_CLEAR_MASK), M_FCLR)`. -/
  | clearFaultT
  /-- `A[7:0]`. -/
  | aLo
  /-- `A[15:8]`. -/
  | aHi
  /-- `B[7:0]`. -/
  | bLo
  /-- `B[15:8]`. -/
  | bHi
  deriving DecidableEq, Repr

/-- What RES is formed from (R20). -/
inductive ResSrc where
  /-- `R >> 1`. -/
  | rShifted
  /-- `zext_16(T)`. -/
  | tExtended
  /-- `R`. -/
  | rWord
  deriving DecidableEq, Repr

/-- What the response presents (R22). -/
inductive RspSrc where
  | zero
  | res
  deriving DecidableEq, Repr

/-- One entry of a micro-program (R96, R131). -/
inductive Micro where
  | init
  | rd8 (a : Byte)
  | rd16 (a : Byte)
  | wr8 (a : Byte) (v : WrData)
  | dly (n : Nat)
  | setRes (src : ResSrc)
  | skip (ifBno ifNot : BitVec 4)
  | respond (src : RspSrc) (status : RspStatus)
  deriving DecidableEq, Repr

/-- T, which must have been read in this command (R18, U14). -/
def readT (q : Seq) : Except Fault Byte := if q.tLive then .ok q.t else .error .readUnwrittenT

/-- R, which must have been read in this command (R19, U14). -/
def readR (q : Seq) : Except Fault Word := if q.rLive then .ok q.r else .error .readUnwrittenR

/-- RES, which must have been formed in this command (R20, U14). -/
def readRes (q : Seq) : Except Fault Word := if q.resLive then .ok q.res else .error .readUnwrittenRes

/-- The byte a write sends. -/
def WrData.eval (cfg : Config) (q : Seq) : WrData → Except Fault Byte
  | .lit v => .ok v
  | .setT m => (readT q).map fun t => cfgSet t m
  | .clrT m => (readT q).map fun t => cfgClr t m
  | .wireT mode => (readT q).map (wireBit cfg mode)
  | .clearFaultT => (readT q).map (clearFaultByte cfg)
  | .aLo => .ok (thrLo q.a)
  | .aHi => .ok (thrHi q.a)
  | .bLo => .ok (thrLo q.b)
  | .bHi => .ok (thrHi q.b)

/-- The word RES takes. -/
def ResSrc.eval (q : Seq) : ResSrc → Except Fault Word
  | .rShifted => (readR q).map rtdCode
  | .tExtended => (readT q).map fun t => t.setWidth 16
  | .rWord => readR q

/-- The word the response presents. -/
def RspSrc.eval (q : Seq) : RspSrc → Except Fault Word
  | .zero => .ok 0x0000#16
  | .res => readRes q

/-- A machine outcome from an operand that may be dead. -/
def withOperand {α : Type} (x : Except Fault α) (k : α → Host.Outcome State Fault Refusal) :
    Host.Outcome State Fault Refusal :=
  match x with
  | .ok v => k v
  | .error f => .fault f

end Sys2Proof.Machine
end

