-- ==== Sys2Proof/Machine/Programs.lean ====
section
/-! DEFINITION. The micro-programs, fixed text (spec/42_configuration.md, 43_fault.md, 44_conversion.md). -/

namespace Sys2Proof.Machine

/-- The pair SET_WIRES issues (R107). -/
def progSetWires (cfg : Config) (mode : WireMode) : List Micro :=
  [.rd8 cfg.aConfig, .wr8 cfg.aConfig (.wireT mode), .respond .zero .ok]

/-- ENABLE_BIAS (R108). -/
def progEnableBias (cfg : Config) (on : Bool) : List Micro :=
  [.rd8 cfg.aConfig, .wr8 cfg.aConfig (if on then .setT cfg.mBias else .clrT cfg.mBias), .respond .zero .ok]

/-- AUTO_CONVERT (R109). -/
def progAutoConvert (cfg : Config) (on : Bool) : List Micro :=
  [.rd8 cfg.aConfig, .wr8 cfg.aConfig (if on then .setT cfg.mAuto else .clrT cfg.mAuto), .respond .zero .ok]

/-- SET_THRESHOLDS (R110). -/
def progSetThresholds (cfg : Config) : List Micro :=
  [.wr8 cfg.aLthrLsb .aLo, .wr8 cfg.aLthrMsb .aHi, .wr8 cfg.aHthrLsb .bLo, .wr8 cfg.aHthrMsb .bHi,
    .respond .zero .ok]

/-- GET_LOWER_THRESHOLD (R111). -/
def progGetLowerThreshold (cfg : Config) : List Micro :=
  [.rd16 cfg.aLthrMsb, .setRes .rWord, .respond .res .ok]

/-- GET_UPPER_THRESHOLD (R112). -/
def progGetUpperThreshold (cfg : Config) : List Micro :=
  [.rd16 cfg.aHthrMsb, .setRes .rWord, .respond .res .ok]

/-- READ_FAULT (R116). -/
def progReadFault (cfg : Config) : List Micro :=
  [.rd8 cfg.aFault, .setRes .tExtended, .respond .res .ok]

/-- CLEAR_FAULT (R117). -/
def progClearFault (cfg : Config) : List Micro :=
  [.rd8 cfg.aConfig, .wr8 cfg.aConfig .clearFaultT, .respond .zero .ok]

/-- BEGIN (the table of R106). -/
def progBegin (cfg : Config) (mode : WireMode) : List Micro :=
  [.init,
    .rd8 cfg.aConfig, .wr8 cfg.aConfig (.wireT mode),
    .rd8 cfg.aConfig, .wr8 cfg.aConfig (.clrT cfg.mBias),
    .rd8 cfg.aConfig, .wr8 cfg.aConfig (.clrT cfg.mAuto),
    .wr8 cfg.aLthrLsb (.lit (thrLo Config.thrOpenLo)), .wr8 cfg.aLthrMsb (.lit (thrHi Config.thrOpenLo)),
    .wr8 cfg.aHthrLsb (.lit (thrLo Config.thrOpenHi)), .wr8 cfg.aHthrMsb (.lit (thrHi Config.thrOpenHi)),
    .rd8 cfg.aConfig, .wr8 cfg.aConfig .clearFaultT,
    .respond .zero .ok]

/-- READ_RTD (the table of R121). -/
def progReadRtd (cfg : Config) : List Micro :=
  [.skip 1#4 4#4,
    .rd8 cfg.aConfig, .wr8 cfg.aConfig (.setT cfg.mBias), .dly cfg.settleTicks,
    .rd8 cfg.aConfig, .wr8 cfg.aConfig (.setT cfg.m1Shot), .dly cfg.convTicks,
    .rd16 cfg.aRtdMsb, .setRes .rShifted,
    .skip 10#4 12#4,
    .rd8 cfg.aConfig, .wr8 cfg.aConfig (.clrT cfg.mBias),
    .respond .res .ok]

/-- An illegal word's one-entry micro-program (R139). -/
def progIllegal : List Micro := [.respond .zero .illegal]

/-- The micro-program of a command or illegal word (R15, R105). The micro-operations and the layouts are no
commands and have none. -/
def microProgram (cfg : Config) : Instr → List Micro
  | .beginCmd mode _ _ => progBegin cfg mode
  | .readRtd _ _ => progReadRtd cfg
  | .readFault _ _ => progReadFault cfg
  | .clearFault _ _ => progClearFault cfg
  | .enableBias on _ _ => progEnableBias cfg on
  | .autoConvert on _ _ => progAutoConvert cfg on
  | .setWires mode _ _ => progSetWires cfg mode
  | .setThresholds _ _ => progSetThresholds cfg
  | .getLowerThreshold _ _ => progGetLowerThreshold cfg
  | .getUpperThreshold _ _ => progGetUpperThreshold cfg
  | .illegalBeginMode3 _ _ => progIllegal
  | .illegalSetWiresMode3 _ _ => progIllegal
  | .illegalOp0A0B _ _ _ => progIllegal
  | .illegalOp0C0F _ _ _ => progIllegal
  | .illegalOp101F _ _ _ => progIllegal
  | .illegalOp203F _ _ _ => progIllegal
  | .illegalOp407F _ _ _ => progIllegal
  | .illegalOp80FF _ _ _ => progIllegal
  | .rd8 _ | .rd16 _ | .wr8 _ _ | .initTransport | .frameRdConfig | .frameRdRtd | .frameRdHthr
  | .frameRdLthr | .frameRdFault | .frameWrConfig _ | .frameWrHthrMsb _ | .frameWrHthrLsb _
  | .frameWrLthrMsb _ | .frameWrLthrLsb _ | .configReg _ | .faultReg _ | .rtdWord _ | .thresholdWord _ => []

/-- The micro-program selected by the latched word (R15, R16). -/
def currentProgram (cfg : Config) (q : Seq) : List Micro := microProgram cfg (decodeFields q.op q.a q.b)

end Sys2Proof.Machine
end

