-- ==== Sys2Proof/Machine/Sequencer.lean ====
section
/-! DEFINITION. The sequencer: one micro-step, one edge, and a command from acceptance to response
(spec/41_bus_primitives.md R96, spec/42_configuration.md R105). -/

namespace Sys2Proof.Machine

/-- One entry as one micro-step (R96). -/
def runMicro (m : Micro) (s : State) : Host.Outcome State Fault Refusal :=
  match m with
  | .init => transact .init s
  | .rd8 a => transact (.read1 a) s
  | .rd16 a => transact (.read2 a) s
  | .wr8 a v => withOperand (v.eval s.cfg s.seq) fun byte => transact (.write a byte) s
  | .dly n => .next (delay n s)
  | .setRes src => withOperand (src.eval s.seq) fun w => .next (setResult w s)
  | .skip ifBno ifNot => .next (skip ifBno ifNot s)
  | .respond src status => withOperand (src.eval s.seq) fun d => .next (respond d status s)

/-- One edge of an entry: a transport micro-operation raises its request (its answer is the step at the open
handshake, R28), a delay loads or counts TMR (R101), every other entry is one edge. -/
def edgeMicro (m : Micro) (s : State) : Host.Outcome State Fault Refusal :=
  match m with
  | .init => .next (openHandshake .init s)
  | .rd8 a => .next (openHandshake (.read1 a) s)
  | .rd16 a => .next (openHandshake (.read2 a) s)
  | .wr8 a v => withOperand (v.eval s.cfg s.seq) fun byte => .next (openHandshake (.write a byte) s)
  | .dly n => .next (delayEdge n s)
  | .setRes src => withOperand (src.eval s.seq) fun w => .next (setResult w s)
  | .skip ifBno ifNot => .next (skip ifBno ifNot s)
  | .respond src status => withOperand (src.eval s.seq) fun d => .next (respond d status s)

/-- The entry `upc` names (R17), given to a way of running it. -/
def atUpc (k : Micro → State → Host.Outcome State Fault Refusal) (s : State) :
    Host.Outcome State Fault Refusal :=
  match (currentProgram s.cfg s.seq)[s.seq.upc.toNat]? with
  | some m => k m s
  | none => .fault .upcOutsideProgram

/-- One micro-step of the command in execution. -/
def microStep (s : State) : Host.Outcome State Fault Refusal := atUpc runMicro s

/-- One edge of the command in execution. -/
def edgeStep (s : State) : Host.Outcome State Fault Refusal := atUpc edgeMicro s

/-- Up to `n` micro-steps, until the command has responded or its handshake stays open. -/
def runCommand : Nat → State → Host.Outcome State Fault Refusal
  | 0, s => .next s
  | n + 1, s =>
    if s.seq.busy && !s.port.tReq then
      match microStep s with
      | .next t => runCommand n t
      | .fault x => .fault x
      | .refused x => .refused x
    else .next s

/-- More micro-steps than any command has (R17: at most 14). -/
def commandFuel : Nat := 16

/-- A command, from acceptance to response (R26, R105, R22). A block that is busy does not take it: 'a command
presented while busy is neither taken nor queued' (R26; log 26). -/
def command (op : Byte) (a b : Word) (s : State) : Host.Outcome State Fault Refusal :=
  if s.seq.busy then .next s else runCommand commandFuel (accept op a b s)

/-- The command in execution goes on, as far as one step of the grain goes (log 1). -/
def continueCommand (s : State) : Host.Outcome State Fault Refusal :=
  match s.grain with
  | .command => runCommand commandFuel s
  | .micro => microStep s
  | .edge => edgeStep s

end Sys2Proof.Machine
end

