-- ==== Sys2Proof/Machine/Configuration.lean ====
section
/-! DEFINITION. The initialisation and configuration commands (spec/42_configuration.md). -/

namespace Sys2Proof.Machine

/-- BEGIN(mode) (R106). -/
def execBeginCmd (mode : WireMode) (ignA : BitVec 14) (ignB : Word) (s : State) :
    Host.Outcome State Fault Refusal :=
  command 0x00#8 (wireField ignA (wireCode mode)) ignB s

/-- SET_WIRES(mode) (R107). -/
def execSetWires (mode : WireMode) (ignA : BitVec 14) (ignB : Word) (s : State) :
    Host.Outcome State Fault Refusal :=
  command 0x06#8 (wireField ignA (wireCode mode)) ignB s

/-- ENABLE_BIAS(b) (R108). -/
def execEnableBias (on : Bool) (ignA : BitVec 15) (ignB : Word) (s : State) :
    Host.Outcome State Fault Refusal :=
  command 0x04#8 (boolField ignA on) ignB s

/-- AUTO_CONVERT(b) (R109). -/
def execAutoConvert (on : Bool) (ignA : BitVec 15) (ignB : Word) (s : State) :
    Host.Outcome State Fault Refusal :=
  command 0x05#8 (boolField ignA on) ignB s

/-- SET_THRESHOLDS(lower, upper) (R110). -/
def execSetThresholds (lower upper : Word) (s : State) : Host.Outcome State Fault Refusal :=
  command 0x07#8 lower upper s

/-- GET_LOWER_THRESHOLD (R111). -/
def execGetLowerThreshold (ignA ignB : Word) (s : State) : Host.Outcome State Fault Refusal :=
  command 0x08#8 ignA ignB s

/-- GET_UPPER_THRESHOLD (R112). -/
def execGetUpperThreshold (ignA ignB : Word) (s : State) : Host.Outcome State Fault Refusal :=
  command 0x09#8 ignA ignB s

end Sys2Proof.Machine
end

