-- ==== Sys2Proof/Machine/Conversion.lean ====
section
/-! DEFINITION. The conversion command (spec/44_conversion.md). -/

namespace Sys2Proof.Machine

/-- READ_RTD (R120 to R129). -/
def execReadRtd (ignA ignB : Word) (s : State) : Host.Outcome State Fault Refusal :=
  command 0x01#8 ignA ignB s

end Sys2Proof.Machine
end

