-- ==== Sys2Proof/Machine/FaultCommands.lean ====
section
/-! DEFINITION. The fault inspection commands (spec/43_fault.md). -/

namespace Sys2Proof.Machine

/-- READ_FAULT (R116). -/
def execReadFault (ignA ignB : Word) (s : State) : Host.Outcome State Fault Refusal :=
  command 0x02#8 ignA ignB s

/-- CLEAR_FAULT (R117). -/
def execClearFault (ignA ignB : Word) (s : State) : Host.Outcome State Fault Refusal :=
  command 0x03#8 ignA ignB s

end Sys2Proof.Machine
end

