-- ==== Sys2Proof/Machine/Illegal.lean ====
section
/-! DEFINITION. The illegal command words (spec/30_encoding.md R70): accepted, and answered with
`rsp_status` = 1 (spec/60_exceptions.md R139). -/

namespace Sys2Proof.Machine

/-- Opcode 0x00 with A[1:0] = 3. -/
def execIllegalBeginMode3 (ignA : BitVec 14) (ignB : Word) (s : State) : Host.Outcome State Fault Refusal :=
  command 0x00#8 (wireField ignA 3#2) ignB s

/-- Opcode 0x06 with A[1:0] = 3. -/
def execIllegalSetWiresMode3 (ignA : BitVec 14) (ignB : Word) (s : State) :
    Host.Outcome State Fault Refusal :=
  command 0x06#8 (wireField ignA 3#2) ignB s

/-- Opcodes 0x0A and 0x0B. -/
def execIllegalOp0A0B (low : BitVec 1) (ignA ignB : Word) (s : State) : Host.Outcome State Fault Refusal :=
  command (opcodeOf (.op0A0B low)) ignA ignB s

/-- Opcodes 0x0C to 0x0F. -/
def execIllegalOp0C0F (low : BitVec 2) (ignA ignB : Word) (s : State) : Host.Outcome State Fault Refusal :=
  command (opcodeOf (.op0C0F low)) ignA ignB s

/-- Opcodes 0x10 to 0x1F. -/
def execIllegalOp101F (low : BitVec 4) (ignA ignB : Word) (s : State) : Host.Outcome State Fault Refusal :=
  command (opcodeOf (.op101F low)) ignA ignB s

/-- Opcodes 0x20 to 0x3F. -/
def execIllegalOp203F (low : BitVec 5) (ignA ignB : Word) (s : State) : Host.Outcome State Fault Refusal :=
  command (opcodeOf (.op203F low)) ignA ignB s

/-- Opcodes 0x40 to 0x7F. -/
def execIllegalOp407F (low : BitVec 6) (ignA ignB : Word) (s : State) : Host.Outcome State Fault Refusal :=
  command (opcodeOf (.op407F low)) ignA ignB s

/-- Opcodes 0x80 to 0xFF. -/
def execIllegalOp80FF (low : BitVec 7) (ignA ignB : Word) (s : State) : Host.Outcome State Fault Refusal :=
  command (opcodeOf (.op80FF low)) ignA ignB s

end Sys2Proof.Machine
end

