-- ==== Sys2Proof/Machine/Layouts.lean ====
section
/-! DEFINITION. The register layouts of the opcode table, as the combinational codec executes them: a word
given to it under a layout shows its fields, and nothing else happens (spec/40_codec.md: 'no state, no
clock, no exception'; log 20). -/

namespace Sys2Proof.Machine

/-- CONFIG_REG: CFG_UNPACK (R81, R82). -/
def execConfigReg (c : Byte) (s : State) : Host.Outcome State Fault Refusal :=
  .next (s.setCodec (.config (cfgUnpack s.cfg c)))

/-- FAULT_REG: FAULT_UNPACK (R86, R87). -/
def execFaultReg (f : Byte) (s : State) : Host.Outcome State Fault Refusal :=
  .next (s.setCodec (.fault (faultUnpack s.cfg f)))

/-- RTD_WORD: RTD_SPLIT (R89). -/
def execRtdWord (w : Word) (s : State) : Host.Outcome State Fault Refusal :=
  .next (s.setCodec (.rtd (rtdCode w) (rtdFault w)))

/-- THRESHOLD_WORD: THR_SPLIT (R91). -/
def execThresholdWord (v : Word) (s : State) : Host.Outcome State Fault Refusal :=
  .next (s.setCodec (.threshold (thrLo v) (thrHi v)))

end Sys2Proof.Machine
end

