-- ==== Sys2Proof/Machine/Transport.lean ====
section
/-! DEFINITION. The transport micro-operations (spec/41_bus_primitives.md R97 to R100) and the concrete frames
of the opcode table, which are the same operations at the default addresses (log 30). -/

namespace Sys2Proof.Machine

/-- INIT (R97). -/
def execInitTransport (s : State) : Host.Outcome State Fault Refusal := transact .init s

/-- RD8 a (R98). -/
def execRd8 (a : RegAddr) (s : State) : Host.Outcome State Fault Refusal := transact (.read1 (readByte a)) s

/-- RD16 a (R99). -/
def execRd16 (a : RegAddr) (s : State) : Host.Outcome State Fault Refusal := transact (.read2 (readByte a)) s

/-- WR8 a, v (R100). -/
def execWr8 (a : RegAddr) (v : Byte) (s : State) : Host.Outcome State Fault Refusal :=
  transact (.write (readByte a) v) s

/-- `R[00]`, one byte. -/
def execFrameRdConfig (s : State) : Host.Outcome State Fault Refusal := transact (.read1 0x00#8) s

/-- `R[01]`, two bytes. -/
def execFrameRdRtd (s : State) : Host.Outcome State Fault Refusal := transact (.read2 0x01#8) s

/-- `R[03]`, two bytes. -/
def execFrameRdHthr (s : State) : Host.Outcome State Fault Refusal := transact (.read2 0x03#8) s

/-- `R[05]`, two bytes. -/
def execFrameRdLthr (s : State) : Host.Outcome State Fault Refusal := transact (.read2 0x05#8) s

/-- `R[07]`, one byte. -/
def execFrameRdFault (s : State) : Host.Outcome State Fault Refusal := transact (.read1 0x07#8) s

/-- `W[80 v]`. -/
def execFrameWrConfig (v : Byte) (s : State) : Host.Outcome State Fault Refusal :=
  transact (.write 0x00#8 v) s

/-- `W[83 v]`. -/
def execFrameWrHthrMsb (v : Byte) (s : State) : Host.Outcome State Fault Refusal :=
  transact (.write 0x03#8 v) s

/-- `W[84 v]`. -/
def execFrameWrHthrLsb (v : Byte) (s : State) : Host.Outcome State Fault Refusal :=
  transact (.write 0x04#8 v) s

/-- `W[85 v]`. -/
def execFrameWrLthrMsb (v : Byte) (s : State) : Host.Outcome State Fault Refusal :=
  transact (.write 0x05#8 v) s

/-- `W[86 v]`. -/
def execFrameWrLthrLsb (v : Byte) (s : State) : Host.Outcome State Fault Refusal :=
  transact (.write 0x06#8 v) s

end Sys2Proof.Machine
end

