-- ==== Sys2Proof/Machine/Dispatch.lean ====
section
/-! DEFINITION. The meaning of each instruction, one arm per constructor. -/

namespace Sys2Proof.Machine

def exec (i : Instr) (s : State) : Host.Outcome State Fault Refusal :=
  match i with
  | .beginCmd mode ignA ignB => Sys2Proof.Machine.execBeginCmd mode ignA ignB s
  | .readRtd ignA ignB => Sys2Proof.Machine.execReadRtd ignA ignB s
  | .readFault ignA ignB => Sys2Proof.Machine.execReadFault ignA ignB s
  | .clearFault ignA ignB => Sys2Proof.Machine.execClearFault ignA ignB s
  | .enableBias on ignA ignB => Sys2Proof.Machine.execEnableBias on ignA ignB s
  | .autoConvert on ignA ignB => Sys2Proof.Machine.execAutoConvert on ignA ignB s
  | .setWires mode ignA ignB => Sys2Proof.Machine.execSetWires mode ignA ignB s
  | .setThresholds lower upper => Sys2Proof.Machine.execSetThresholds lower upper s
  | .getLowerThreshold ignA ignB => Sys2Proof.Machine.execGetLowerThreshold ignA ignB s
  | .getUpperThreshold ignA ignB => Sys2Proof.Machine.execGetUpperThreshold ignA ignB s
  | .illegalBeginMode3 ignA ignB => Sys2Proof.Machine.execIllegalBeginMode3 ignA ignB s
  | .illegalSetWiresMode3 ignA ignB => Sys2Proof.Machine.execIllegalSetWiresMode3 ignA ignB s
  | .illegalOp0A0B low ignA ignB => Sys2Proof.Machine.execIllegalOp0A0B low ignA ignB s
  | .illegalOp0C0F low ignA ignB => Sys2Proof.Machine.execIllegalOp0C0F low ignA ignB s
  | .illegalOp101F low ignA ignB => Sys2Proof.Machine.execIllegalOp101F low ignA ignB s
  | .illegalOp203F low ignA ignB => Sys2Proof.Machine.execIllegalOp203F low ignA ignB s
  | .illegalOp407F low ignA ignB => Sys2Proof.Machine.execIllegalOp407F low ignA ignB s
  | .illegalOp80FF low ignA ignB => Sys2Proof.Machine.execIllegalOp80FF low ignA ignB s
  | .rd8 a => Sys2Proof.Machine.execRd8 a s
  | .rd16 a => Sys2Proof.Machine.execRd16 a s
  | .wr8 a v => Sys2Proof.Machine.execWr8 a v s
  | .initTransport => Sys2Proof.Machine.execInitTransport s
  | .frameRdConfig => Sys2Proof.Machine.execFrameRdConfig s
  | .frameRdRtd => Sys2Proof.Machine.execFrameRdRtd s
  | .frameRdHthr => Sys2Proof.Machine.execFrameRdHthr s
  | .frameRdLthr => Sys2Proof.Machine.execFrameRdLthr s
  | .frameRdFault => Sys2Proof.Machine.execFrameRdFault s
  | .frameWrConfig v => Sys2Proof.Machine.execFrameWrConfig v s
  | .frameWrHthrMsb v => Sys2Proof.Machine.execFrameWrHthrMsb v s
  | .frameWrHthrLsb v => Sys2Proof.Machine.execFrameWrHthrLsb v s
  | .frameWrLthrMsb v => Sys2Proof.Machine.execFrameWrLthrMsb v s
  | .frameWrLthrLsb v => Sys2Proof.Machine.execFrameWrLthrLsb v s
  | .configReg c => Sys2Proof.Machine.execConfigReg c s
  | .faultReg f => Sys2Proof.Machine.execFaultReg f s
  | .rtdWord w => Sys2Proof.Machine.execRtdWord w s
  | .thresholdWord v => Sys2Proof.Machine.execThresholdWord v s

end Sys2Proof.Machine
end

