-- ==== Sys2Proof/Machine/Fetch.lean ====
section
/-! DEFINITION. What the next step is (spec/60_exceptions.md R142): reset first, then the codec's input, then
the open handshake, then the command in execution, then the command port. -/

namespace Sys2Proof.Machine

/-- What the machine does next: run an instruction it has fetched, in the state the fetch leaves, or a step
that fetches nothing. -/
inductive Fetched where
  | run (w : PortWord) (s : State)
  | other (o : Host.Outcome State Fault Refusal)

/-- The request on the transport port, as a port word. -/
def TPort.word (p : TPort) : PortWord := .tport p.tKind p.tW0 p.tW1 p.tRlen

/-- The command port of a block that is ready (R25, R26): a presented word is taken from the host; in the
grains finer than a command the step is the acceptance alone. -/
def fetchCommand (s : State) : Fetched :=
  match s.host with
  | [] => .other (.next (tick s))
  | .wait n :: rest => .other (.next (hostWait n rest s))
  | .present w :: rest =>
    match s.grain with
    | .command => .run (.cmd w) (s.setHost rest)
    | .micro => .other (.next (accept (cmdOp w) (cmdA w) (cmdB w) (s.setHost rest)))
    | .edge => .other (.next (accept (cmdOp w) (cmdA w) (cmdB w) (s.setHost rest)))

/-- What the next step is. -/
def fetch (s : State) : Fetched :=
  if s.rst then .other (.next (applyReset s))
  else
    match s.codecIn with
    | some (sel, w) => .run (.codec sel w) s
    | none =>
      if s.port.tReq then .run s.port.word s
      else if s.seq.busy then .other (continueCommand s)
      else fetchCommand s

/-- The state in which the next step fetches a port word (log 2): the word stands at its port, and nothing
that goes before that port is in the way. -/
def place (w : PortWord) (s : State) : State :=
  match w with
  | .cmd c =>
    { s with
      rst := false, codecIn := none, grain := .command, host := .present c :: s.host
      seq := { s.seq with busy := false }, port := { s.port with tReq := false } }
  | .tport kind w0 w1 rlen =>
    { s with
      rst := false, codecIn := none
      port := { tReq := true, tKind := kind, tW0 := w0, tW1 := w1, tRlen := rlen } }
  | .codec sel v => { s with rst := false, codecIn := some (sel, v) }

end Sys2Proof.Machine
end

