-- ==== Sys2Proof/Machine/Step.lean ====
section
/-! DEFINITION. One step of the machine. -/

namespace Sys2Proof.Machine

/-- A fetched port word is decoded and run; what is no instruction is refused. -/
def runWord (w : PortWord) (s : State) : Host.Outcome State Fault Refusal :=
  match decode w with
  | .ok i => exec i s
  | .error _ => .refused .undecodable

/-- One step. -/
def step (s : State) : Host.Outcome State Fault Refusal :=
  match fetch s with
  | .run w t => runWord w t
  | .other o => o

/-- The state in which the next step fetches and runs a table row's word (log 2, 21). -/
def State.withFetchWord (s : State) (nbits w : Nat) : State := place (tablePortWord nbits w) s

end Sys2Proof.Machine
end

