-- ==== Sys2Proof/Safety.lean ====
section
/-! DEFINITION. The terms claims are stated in: runs of the machine, the invariant of its reachable states,
the time line of a command, what frames the block may emit. Nothing here is used by the machine. -/

namespace Sys2Proof.Machine

/-- `n` steps, stopping at the first fault or refusal. -/
def stepN : Nat → State → Host.Outcome State Fault Refusal
  | 0, s => .next s
  | n + 1, s =>
    match step s with
    | .next t => stepN n t
    | .fault x => .fault x
    | .refused x => .refused x

/-! ## Kinds of instructions -/

/-- The eight rows of illegal command words (R70). -/
def isIllegal : Instr → Bool
  | .illegalBeginMode3 .. | .illegalSetWiresMode3 .. | .illegalOp0A0B .. | .illegalOp0C0F ..
  | .illegalOp101F .. | .illegalOp203F .. | .illegalOp407F .. | .illegalOp80FF .. => true
  | .beginCmd .. | .readRtd .. | .readFault .. | .clearFault .. | .enableBias .. | .autoConvert ..
  | .setWires .. | .setThresholds .. | .getLowerThreshold .. | .getUpperThreshold .. | .rd8 .. | .rd16 ..
  | .wr8 .. | .initTransport | .frameRdConfig | .frameRdRtd | .frameRdHthr | .frameRdLthr | .frameRdFault
  | .frameWrConfig .. | .frameWrHthrMsb .. | .frameWrHthrLsb .. | .frameWrLthrMsb .. | .frameWrLthrLsb ..
  | .configReg .. | .faultReg .. | .rtdWord .. | .thresholdWord .. => false

/-- The ten commands (R64). -/
def isCommand : Instr → Bool
  | .beginCmd .. | .readRtd .. | .readFault .. | .clearFault .. | .enableBias .. | .autoConvert ..
  | .setWires .. | .setThresholds .. | .getLowerThreshold .. | .getUpperThreshold .. => true
  | .illegalBeginMode3 .. | .illegalSetWiresMode3 .. | .illegalOp0A0B .. | .illegalOp0C0F ..
  | .illegalOp101F .. | .illegalOp203F .. | .illegalOp407F .. | .illegalOp80FF .. | .rd8 .. | .rd16 ..
  | .wr8 .. | .initTransport | .frameRdConfig | .frameRdRtd | .frameRdHthr | .frameRdLthr | .frameRdFault
  | .frameWrConfig .. | .frameWrHthrMsb .. | .frameWrHthrLsb .. | .frameWrLthrMsb .. | .frameWrLthrLsb ..
  | .configReg .. | .faultReg .. | .rtdWord .. | .thresholdWord .. => false

/-- The fields `op`, `A`, `B` of a command or illegal word (R65), as it is encoded; nothing for the other
instructions. -/
def commandFields (i : Instr) : Option (Byte × Word × Word) :=
  match encode i with
  | .cmd w => some (cmdOp w, cmdA w, cmdB w)
  | .tport _ _ _ _ => none
  | .codec _ _ => none

/-- The address RD8 reads under each of its names (R98). -/
def read1Addr : Instr → Option Byte
  | .rd8 a => some (0#1 ++ a)
  | .frameRdConfig => some 0x00#8
  | .frameRdFault => some 0x07#8
  | .beginCmd .. | .readRtd .. | .readFault .. | .clearFault .. | .enableBias .. | .autoConvert ..
  | .setWires .. | .setThresholds .. | .getLowerThreshold .. | .getUpperThreshold ..
  | .illegalBeginMode3 .. | .illegalSetWiresMode3 .. | .illegalOp0A0B .. | .illegalOp0C0F ..
  | .illegalOp101F .. | .illegalOp203F .. | .illegalOp407F .. | .illegalOp80FF .. | .rd16 .. | .wr8 ..
  | .initTransport | .frameRdRtd | .frameRdHthr | .frameRdLthr | .frameWrConfig .. | .frameWrHthrMsb ..
  | .frameWrHthrLsb .. | .frameWrLthrMsb .. | .frameWrLthrLsb .. | .configReg .. | .faultReg ..
  | .rtdWord .. | .thresholdWord .. => none

/-- The address RD16 reads under each of its names (R99). -/
def read2Addr : Instr → Option Byte
  | .rd16 a => some (0#1 ++ a)
  | .frameRdRtd => some 0x01#8
  | .frameRdHthr => some 0x03#8
  | .frameRdLthr => some 0x05#8
  | .beginCmd .. | .readRtd .. | .readFault .. | .clearFault .. | .enableBias .. | .autoConvert ..
  | .setWires .. | .setThresholds .. | .getLowerThreshold .. | .getUpperThreshold ..
  | .illegalBeginMode3 .. | .illegalSetWiresMode3 .. | .illegalOp0A0B .. | .illegalOp0C0F ..
  | .illegalOp101F .. | .illegalOp203F .. | .illegalOp407F .. | .illegalOp80FF .. | .rd8 .. | .wr8 ..
  | .initTransport | .frameRdConfig | .frameRdFault | .frameWrConfig .. | .frameWrHthrMsb ..
  | .frameWrHthrLsb .. | .frameWrLthrMsb .. | .frameWrLthrLsb .. | .configReg .. | .faultReg ..
  | .rtdWord .. | .thresholdWord .. => none

/-- The address and byte WR8 writes under each of its names (R100). -/
def writeAddr : Instr → Option (Byte × Byte)
  | .wr8 a v => some (0#1 ++ a, v)
  | .frameWrConfig v => some (0x00#8, v)
  | .frameWrHthrMsb v => some (0x03#8, v)
  | .frameWrHthrLsb v => some (0x04#8, v)
  | .frameWrLthrMsb v => some (0x05#8, v)
  | .frameWrLthrLsb v => some (0x06#8, v)
  | .beginCmd .. | .readRtd .. | .readFault .. | .clearFault .. | .enableBias .. | .autoConvert ..
  | .setWires .. | .setThresholds .. | .getLowerThreshold .. | .getUpperThreshold ..
  | .illegalBeginMode3 .. | .illegalSetWiresMode3 .. | .illegalOp0A0B .. | .illegalOp0C0F ..
  | .illegalOp101F .. | .illegalOp203F .. | .illegalOp407F .. | .illegalOp80FF .. | .rd8 .. | .rd16 ..
  | .initTransport | .frameRdConfig | .frameRdRtd | .frameRdHthr | .frameRdLthr | .frameRdFault
  | .configReg .. | .faultReg .. | .rtdWord .. | .thresholdWord .. => none

/-! ## Answers and time lines -/

/-- The transport answers the next `n` operations (the fairness premise of R169). -/
def Env.returns (e : Env) (n : Nat) : Prop := ∀ k < n, (e.answerAt k).duration.isSome = true

/-- The duration of the `k`-th operation from now. -/
def Env.dur (e : Env) (k : Nat) : Nat := ((e.answerAt k).duration).getD 0

/-- The first byte the transport returns for it. -/
def Env.byte0 (e : Env) (k : Nat) : Byte := (e.answerAt k).r0

/-- The second byte. -/
def Env.byte1 (e : Env) (k : Nat) : Byte := (e.answerAt k).r1

/-- The events of micro-steps that follow one another without a gap, each with its duration; a micro-step
that records nothing only takes its time. -/
def timeline : Nat → List (Option EventKind × Nat) → List Event
  | _, [] => []
  | now, (some k, d) :: rest => ⟨k, now, now + d⟩ :: timeline (now + d) rest
  | now, (none, d) :: rest => timeline (now + d) rest

/-- How long they take together. -/
def ticksOfTimeline : List (Option EventKind × Nat) → Nat
  | [] => 0
  | (_, d) :: rest => d + ticksOfTimeline rest

/-- The environment after the micro-steps of a time line with `ops` transport operations and `lags` other
micro-steps, the chip and its bookkeeping untouched: what the oracle leaves. -/
def Env.passed (e : Env) (ops lags : Nat) (l : List (Option EventKind × Nat)) : Env :=
  { e with
    now := e.now + ticksOfTimeline l
    history := e.history ++ timeline e.now l
    answers := e.answers.drop ops
    lags := e.lags.drop lags
    draws := e.draws + ops
    lagDraws := e.lagDraws + lags }

/-- The sequencer after a command word has been taken and answered (R22, R26), T and R as they were and dead;
RES is the value presented (R20), and as it was and dead after an illegal word (R139; log 10). -/
def Seq.answered (q : Seq) (op : Byte) (a b : Word) (d : Word) (status : RspStatus) : Seq :=
  { q with
    busy := false, op := op, a := a, b := b, upc := 0#4, tLive := false, rLive := false
    res := if status = .ok then d else q.res, resLive := status == .ok
    phase := .idle, rspValid := true, rspData := d, rspStatus := status }

/-- A block that is ready for a command, in front of the oracle (R52). -/
def ReadyOracle (s : State) : Prop :=
  s.seq.busy = false ∧ s.port.tReq = false ∧ s.seq.tmr = 0 ∧ s.env.kind = .oracle

/-- A block that is ready for a command, in front of an initialised ENV-REF with no conversion pending and no
fault about to be injected, its parameters those of ENV-REF's eight registers (R53). -/
def ReadyRef (s : State) : Prop :=
  s.seq.busy = false ∧ s.port.tReq = false ∧ s.seq.tmr = 0 ∧ s.env.kind = .envRef
    ∧ s.env.transport = .ready ∧ s.env.pending = none ∧ s.env.injections = []
    ∧ s.cfg.wf = true ∧ s.cfg.refMapOk = true

/-! ## The frames the block may emit -/

/-- The event is a response, a delay, an `Init`, or one of the frames of R36 and R80: a read of the
configuration or fault byte, a 16-bit read of a pair, a write of the configuration or a threshold byte. -/
def allowedEvent (cfg : Config) : EventKind → Bool
  | .init => true
  | .response _ _ => true
  | .delayElapsed n => n == cfg.settleTicks || n == cfg.convTicks
  | .writeThenRead a n bytes =>
    (n == 1 && bytes.length == 1 && (a == addrRd cfg.aConfig || a == addrRd cfg.aFault))
      || (n == 2 && bytes.length == 2
        && (a == addrRd cfg.aRtdMsb || a == addrRd cfg.aHthrMsb || a == addrRd cfg.aLthrMsb))
  | .write a _ =>
    a == addrWr cfg.aConfig || a == addrWr cfg.aLthrLsb || a == addrWr cfg.aLthrMsb
      || a == addrWr cfg.aHthrLsb || a == addrWr cfg.aHthrMsb

/-! ## The invariant -/

/-- `phase` while entry `upc` of READ_RTD runs (the table of R121). -/
def phaseDuring (upc : BitVec 4) : Phase :=
  if upc.toNat ≤ 2 then .idle
  else if upc.toNat ≤ 3 then .biasing
  else if upc.toNat ≤ 5 then .readyToTrigger
  else if upc.toNat ≤ 6 then .converting
  else .resultAvailable

/-- The entry's transport operation, given the byte its write sends. -/
def Micro.frame (cfg : Config) (q : Seq) : Micro → Option Frame
  | .init => some .init
  | .rd8 a => some (.read1 a)
  | .rd16 a => some (.read2 a)
  | .wr8 a v =>
    match v.eval cfg q with
    | .ok byte => some (.write a byte)
    | .error _ => none
  | .dly _ | .setRes _ | .skip _ _ | .respond _ _ => none

/-- The open request is `f` (R28), its meaningless bytes aside. -/
def TPort.asks (p : TPort) : Frame → Bool
  | .init => p.tKind == 0#2 && p.tRlen == 0#2
  | .read1 a => p.tKind == 2#2 && p.tW0 == addrRd a && p.tRlen == 1#2
  | .read2 a => p.tKind == 2#2 && p.tW0 == addrRd a && p.tRlen == 2#2
  | .write a v => p.tKind == 1#2 && p.tW0 == addrWr a && p.tW1 == v && p.tRlen == 0#2

/-- What the entry reads is live (R18, U14). -/
def Micro.operandsLive (cfg : Config) (q : Seq) : Micro → Bool
  | .wr8 _ v => (v.eval cfg q).isOk
  | .setRes src => (src.eval q).isOk
  | .respond src _ => (src.eval q).isOk
  | .init | .rd8 _ | .rd16 _ | .dly _ | .skip _ _ => true

/-- RES has been formed by every entry that forms it and lies behind `upc`. -/
def resFormed (program : List Micro) (q : Seq) : Bool :=
  q.resLive || (program.take q.upc.toNat).all fun m =>
    match m with
    | .setRes _ => false
    | .init | .rd8 _ | .rd16 _ | .wr8 _ _ | .dly _ | .skip _ _ | .respond _ _ => true

/-- What holds of the entry at `upc` while a command is in execution. -/
def EntryOk (s : State) (m : Micro) : Prop :=
  m.operandsLive s.cfg s.seq = true
    ∧ (s.seq.tmr ≠ 0 → ∃ n, m = .dly n ∧ s.seq.tmr ≤ n)
    ∧ (s.port.tReq = true → ∃ f, m.frame s.cfg s.seq = some f ∧ s.port.asks f = true)

/-- The invariant of the sequencer and its port: Idle looks as R14, R17, R21 and R23 say; while busy, `upc`
names an entry whose operands are live, `phase` is the table's, TMR counts only inside a delay, and an open
handshake is the entry's own. -/
def SeqInv (s : State) : Prop :=
  (s.seq.busy = false →
      s.seq.upc = 0#4 ∧ s.seq.tmr = 0 ∧ s.seq.phase = .idle ∧ s.port.tReq = false)
    ∧ (s.seq.busy = true →
      (∃ m, (currentProgram s.cfg s.seq)[s.seq.upc.toNat]? = some m ∧ EntryOk s m)
        ∧ resFormed (currentProgram s.cfg s.seq) s.seq = true
        ∧ s.seq.phase = (if s.seq.op = 0x01#8 then phaseDuring s.seq.upc else .idle)
        ∧ (s.seq.op = 0x01#8 → s.cfg.biasNormallyOff = false →
          ¬ (1 ≤ s.seq.upc.toNat ∧ s.seq.upc.toNat ≤ 3)
            ∧ ¬ (10 ≤ s.seq.upc.toNat ∧ s.seq.upc.toNat ≤ 11)))

/-- The invariant of the machine: the sequencer's, and the canonical form of the chip's register space. -/
def Inv (s : State) : Prop := SeqInv s ∧ Memory.wf s.env.mem = true

end Sys2Proof.Machine
end

