-- ==== Sys2Proof/Certificates/Slice0/Obligations.lean ====
section
/-! DEFINITION. The statements about the model, for the provers. Each docstring names the rule of spec/ it
formalises. -/

open Sys2Proof Sys2Proof.Machine

/-! ## Encoding -/

/-- Decoding the word of a well-formed instruction gives the instruction back, with every operand at every
value (R65 to R73, R76). -/
def Obligations.EncodeThenDecode : Prop :=
  ∀ i : Instr, i.wellFormed = true → decode (encode i) = .ok i

/-- Every one of the 2^40 command words is the word of the instruction it decodes to: decoding drops no bit,
so acceptance latches the word presented (R26, R71). At the other two ports a word that is no instruction is
rejected by name: a request with `t_kind` 3, with a `t_rlen` that is not its kind's, or with the wrong bit 7 of
the address byte (R28, R72, R73), and a register word wider than its layout (R76). A step that meets a rejected
word refuses it, the model's choice (log 35). -/
def Obligations.CommandWordsLoseNoBit : Prop :=
  (∀ w : CmdWord, encode (decodeCmd w) = .cmd w)
    ∧ (∀ (kind : BitVec 2) (w0 w1 : Byte) (rlen : BitVec 2),
      (kind = 3#2 → decode (.tport kind w0 w1 rlen) = .error .kindNeverDriven)
        ∧ (kind = 0#2 → rlen ≠ 0#2 → decode (.tport kind w0 w1 rlen) = .error .badReadLength)
        ∧ (kind = 1#2 → w0.getLsbD 7 = false → decode (.tport kind w0 w1 rlen) = .error .badAddressMark)
        ∧ (kind = 1#2 → w0.getLsbD 7 = true → rlen ≠ 0#2 →
          decode (.tport kind w0 w1 rlen) = .error .badReadLength)
        ∧ (kind = 2#2 → w0.getLsbD 7 = true → decode (.tport kind w0 w1 rlen) = .error .badAddressMark)
        ∧ (kind = 2#2 → w0.getLsbD 7 = false → rlen ≠ 1#2 → rlen ≠ 2#2 →
          decode (.tport kind w0 w1 rlen) = .error .badReadLength))
    ∧ (∀ w : Word, w.extractLsb' 8 8 ≠ 0#8 →
      decode (.codec .config w) = .error .layoutTooWide ∧ decode (.codec .fault w) = .error .layoutTooWide)
    ∧ ∀ (p : PortWord) (e : Reject) (s : State), decode p = .error e →
      step (place p s) = .refused .undecodable

/-- R70: the illegal command words are `op` in 0x0A to 0xFF, and `op` = 0x00 or 0x06 with `A[1:0]` = 3; every
other word is one of the ten commands. -/
def Obligations.IllegalWordsAreTheReservedOnes : Prop :=
  ∀ w : CmdWord,
    (isIllegal (decodeCmd w) = true ↔
        0x0A ≤ (w.extractLsb' 32 8).toNat
          ∨ ((w.extractLsb' 32 8 = 0x00#8 ∨ w.extractLsb' 32 8 = 0x06#8) ∧ w.extractLsb' 16 2 = 3#2))
      ∧ isCommand (decodeCmd w) = !isIllegal (decodeCmd w)

/-- R64 with the operands of R66, R67, R68: which command each opcode names, and what its operands are (3,
the reserved wiring mode, is illegal). The bits R69 calls ignored do not matter. -/
def Obligations.OpcodesNameTheCommands : Prop :=
  ∀ w : CmdWord,
    (w.extractLsb' 32 8 = 0x00#8 →
        (w.extractLsb' 16 2 = 0#2 → ∃ x y, decodeCmd w = .beginCmd .two x y)
          ∧ (w.extractLsb' 16 2 = 1#2 → ∃ x y, decodeCmd w = .beginCmd .three x y)
          ∧ (w.extractLsb' 16 2 = 2#2 → ∃ x y, decodeCmd w = .beginCmd .four x y)
          ∧ (w.extractLsb' 16 2 = 3#2 → ∃ x y, decodeCmd w = .illegalBeginMode3 x y))
      ∧ (w.extractLsb' 32 8 = 0x01#8 → ∃ x y, decodeCmd w = .readRtd x y)
      ∧ (w.extractLsb' 32 8 = 0x02#8 → ∃ x y, decodeCmd w = .readFault x y)
      ∧ (w.extractLsb' 32 8 = 0x03#8 → ∃ x y, decodeCmd w = .clearFault x y)
      ∧ (w.extractLsb' 32 8 = 0x04#8 → ∃ x y, decodeCmd w = .enableBias (w.getLsbD 16) x y)
      ∧ (w.extractLsb' 32 8 = 0x05#8 → ∃ x y, decodeCmd w = .autoConvert (w.getLsbD 16) x y)
      ∧ (w.extractLsb' 32 8 = 0x06#8 →
        (w.extractLsb' 16 2 = 0#2 → ∃ x y, decodeCmd w = .setWires .two x y)
          ∧ (w.extractLsb' 16 2 = 1#2 → ∃ x y, decodeCmd w = .setWires .three x y)
          ∧ (w.extractLsb' 16 2 = 2#2 → ∃ x y, decodeCmd w = .setWires .four x y)
          ∧ (w.extractLsb' 16 2 = 3#2 → ∃ x y, decodeCmd w = .illegalSetWiresMode3 x y))
      ∧ (w.extractLsb' 32 8 = 0x07#8 →
        decodeCmd w = .setThresholds (w.extractLsb' 16 16) (w.extractLsb' 0 16))
      ∧ (w.extractLsb' 32 8 = 0x08#8 → ∃ x y, decodeCmd w = .getLowerThreshold x y)
      ∧ (w.extractLsb' 32 8 = 0x09#8 → ∃ x y, decodeCmd w = .getUpperThreshold x y)

/-- Words written out from 30_encoding.md and 95_test_vectors.md section 2.1, and what they stand for; and that a
request with the `t_kind` 3 that R28 calls never driven is rejected, which is the model's choice (log 35). -/
def Obligations.SpecWordsDecode : Prop :=
  decode (.cmd 0x00FFFDBEEF#40) = .ok (.beginCmd .three 0x3FFF#14 0xBEEF#16)
    ∧ decode (.cmd 0x0000030000#40) = .ok (.illegalBeginMode3 0#14 0#16)
    ∧ decode (.cmd 0x04FFFE0000#40) = .ok (.enableBias false 0x7FFF#15 0#16)
    ∧ decode (.cmd 0x071234ABCD#40) = .ok (.setThresholds 0x1234#16 0xABCD#16)
    ∧ decode (.cmd 0x0A00000000#40) = .ok (.illegalOp0A0B 0#1 0#16 0#16)
    ∧ decode (.tport 2#2 0x07#8 0#8 1#2) = .ok .frameRdFault
    ∧ decode (.tport 1#2 0x86#8 0x34#8 0#2) = .ok (.frameWrLthrLsb 0x34#8)
    ∧ decode (.tport 3#2 0#8 0#8 0#2) = .error .kindNeverDriven

/-! ## The codec -/

/-- R84: packing what was unpacked gives the byte back, unpacking what was packed gives the record back. -/
def Obligations.ConfigurationCodecRoundTrip : Prop :=
  ∀ cfg : Config, cfg.wf = true →
    (∀ c : Byte, cfgPack cfg (cfgUnpack cfg c) = c) ∧ ∀ f : CfgFields, cfgUnpack cfg (cfgPack cfg f) = f

/-- R88: FAULT_PACK is the or of the masks of the true fields and `rsvd`; packing an unpacked fault-status byte
gives the byte back. -/
def Obligations.FaultCodecRoundTrip : Prop :=
  ∀ cfg : Config, cfg.wf = true →
    (∀ r : FaultFields, faultPack cfg r
      = (if r.highThr = true then cfg.fHighThr else 0#8) ||| (if r.lowThr = true then cfg.fLowThr else 0#8)
        ||| (if r.refInLow = true then cfg.fRefInLow else 0#8)
        ||| (if r.refInHigh = true then cfg.fRefInHigh else 0#8)
        ||| (if r.rtdInLow = true then cfg.fRtdInLow else 0#8)
        ||| (if r.ovUv = true then cfg.fOvUv else 0#8) ||| r.rsvd)
    ∧ ∀ f : Byte, faultPack cfg (faultUnpack cfg f) = f

/-- R85: the values of CFG_SET and CFG_CLR and the laws the source's properties rest on. -/
def Obligations.SetAndClearTouchOnlyTheirMask : Prop :=
  ∀ t m : Byte,
    cfgSet t m = t ||| m ∧ cfgClr t m = t &&& ~~~m
      ∧ cfgSet t m &&& ~~~m = t &&& ~~~m ∧ cfgClr t m &&& ~~~m = t &&& ~~~m
      ∧ cfgSet (cfgSet t m) m = cfgSet t m ∧ cfgClr (cfgClr t m) m = cfgClr t m
      ∧ cfgSet t m &&& m = m ∧ cfgClr t m &&& m = 0#8

/-- R92, R93 and their common corner case, for every address a parameter can have. -/
def Obligations.AddressBytesCarryTheMark : Prop :=
  ∀ a : Byte, a.toNat < 0x80 →
    addrRd a = a &&& 0x7F#8 ∧ addrWr a = a ||| 0x80#8 ∧ addrWr a &&& 0x7F#8 = addrRd a ∧ addrRd a = a
      ∧ (addrRd a).getLsbD 7 = false ∧ (addrWr a).getLsbD 7 = true

/-- R82, and that nothing else happens: a configuration byte given to the codec shows its seven fields. That
the codec is a step of the machine is the model's choice (log 20). -/
def Obligations.ConfigLayoutShowsItsFields : Prop :=
  ∀ (c : Byte) (s : State),
    exec (.configReg c) s = .next { s with
      codecIn := none
      codecOut := .config {
        bias := c &&& s.cfg.mBias != 0#8
        auto := c &&& s.cfg.mAuto != 0#8
        oneshot := c &&& s.cfg.m1Shot != 0#8
        wire3 := c &&& s.cfg.m3Wire != 0#8
        fcycle := ((c &&& s.cfg.mFcycle) >>> lowbit s.cfg.mFcycle).setWidth 2
        fclr := c &&& s.cfg.mFclr != 0#8
        filt := c &&& s.cfg.mFilt != 0#8 } }
    ∧ (s.cfg.wf = true →
      s.cfg.mFcycle.getLsbD (lowbit s.cfg.mFcycle) = true
        ∧ ∀ k < lowbit s.cfg.mFcycle, s.cfg.mFcycle.getLsbD k = false)

/-- R87, and that nothing else happens (log 20). -/
def Obligations.FaultLayoutShowsItsFields : Prop :=
  ∀ (f : Byte) (s : State),
    exec (.faultReg f) s = .next { s with
      codecIn := none
      codecOut := .fault {
        highThr := f &&& s.cfg.fHighThr != 0#8
        lowThr := f &&& s.cfg.fLowThr != 0#8
        refInLow := f &&& s.cfg.fRefInLow != 0#8
        refInHigh := f &&& s.cfg.fRefInHigh != 0#8
        rtdInLow := f &&& s.cfg.fRtdInLow != 0#8
        ovUv := f &&& s.cfg.fOvUv != 0#8
        rsvd := f &&& ~~~(s.cfg.fHighThr ||| s.cfg.fLowThr ||| s.cfg.fRefInLow ||| s.cfg.fRefInHigh
          ||| s.cfg.fRtdInLow ||| s.cfg.fOvUv) } }

/-- R89, and that nothing else happens (log 20): the code is the word shifted right by one, unsigned, at most
0x7FFF; the flag is bit 0. -/
def Obligations.ResultLayoutShowsCodeAndFlag : Prop :=
  ∀ (w : Word) (s : State), ∃ code : Word,
    exec (.rtdWord w) s
        = .next { s with codecIn := none, codecOut := .rtd code (w.getLsbD 0) }
      ∧ code = w >>> 1 ∧ code.toNat = w.toNat / 2 ∧ code.toNat ≤ 0x7FFF

/-- R91, and that nothing else happens (log 20): the low and the high byte, which join to the word. -/
def Obligations.ThresholdLayoutShowsItsBytes : Prop :=
  ∀ (v : Word) (s : State), ∃ lo hi : Byte,
    exec (.thresholdWord v) s = .next { s with codecIn := none, codecOut := .threshold lo hi }
      ∧ lo = v.extractLsb' 0 8 ∧ hi = v.extractLsb' 8 8 ∧ wordJoin hi lo = v
      ∧ wordJoin hi lo = (hi.setWidth 16 <<< 8) ||| lo.setWidth 16

/-! ## The step -/

/-- A step runs the instruction it has decoded: a register word at the codec, an open request on the transport
port, a command word on the command port of a block that is ready (there the word is also taken from the
host). The order of the three is R142's and the model's (log 1, 2, 20). -/
def Obligations.StepRunsTheDecodedInstruction : Prop :=
  ∀ s : State, s.rst = false →
    (∀ sel w i, s.codecIn = some (sel, w) → decode (.codec sel w) = .ok i → step s = exec i s)
      ∧ (∀ i, s.codecIn = none → s.port.tReq = true → decode s.port.word = .ok i → step s = exec i s)
      ∧ ∀ w rest, s.codecIn = none → s.port.tReq = false → s.seq.busy = false → s.grain = .command →
        s.host = .present w :: rest → step s = exec (decodeCmd w) { s with host := rest }

/-- A word placed at its port is run by the very next step (log 2). -/
def Obligations.PlacedWordRunsNext : Prop :=
  ∀ (i : Instr) (s : State), i.wellFormed = true →
    (∀ f, commandFields i = some f →
      step (place (encode i) s) = exec i { place (encode i) s with host := s.host })
      ∧ (commandFields i = none → step (place (encode i) s) = exec i (place (encode i) s))

/-- R26: at an edge where the command port is valid and the block ready, `op`, `A` and `B` take the word's
fields, `upc` is 0, `busy` is 1, `rsp_valid` is 0, and nothing else changes (the `Live` bits are R18's and
R19's 'dead at acceptance'). The step is the acceptance alone in the grains finer than a command (log 1). -/
def Obligations.AcceptanceLatchesTheWord : Prop :=
  ∀ (s : State) (w : CmdWord) (rest : List HostAction),
    s.rst = false → s.codecIn = none → s.port.tReq = false → s.seq.busy = false → s.grain ≠ .command →
    s.host = .present w :: rest →
    step s = .next { s with
      host := rest
      seq := { s.seq with
        op := w.extractLsb' 32 8, a := w.extractLsb' 16 16, b := w.extractLsb' 0 16, upc := 0#4
        busy := true, rspValid := false, tLive := false, rLive := false, resLive := false } }

/-- R26: while `busy` is 1 'a command presented while busy is neither taken nor queued': no step touches what
the host presents, and the meaning of a command word changes nothing (log 26). -/
def Obligations.BusyBlockTakesNoCommand : Prop :=
  ∀ s : State, s.seq.busy = true →
    (∀ t, step s = .next t → t.host = s.host)
      ∧ ∀ i f, commandFields i = some f → exec i s = .next s

/-- A block at rest on whose command port nothing is presented: the step lets one tick pass, or the ticks the host
waits, and nothing else moves. The model's choice of what such a step is (log 28). -/
def Obligations.IdleStepOnlyLetsTimePass : Prop :=
  ∀ s : State, s.rst = false → s.codecIn = none → s.port.tReq = false → s.seq.busy = false →
    (s.host = [] → step s = .next { s with env := { s.env with now := s.env.now + 1 } })
      ∧ ∀ n rest, s.host = .wait n :: rest →
        step s = .next { s with host := rest, env := { s.env with now := s.env.now + n } }

/-! ## Reset -/

/-- R151, R152: reset wins over everything at its edge, and leaves every register of the block at its value,
whatever the block was doing; with the block idle and no handshake open the chip is not touched and the transport
is uninitialised. `now` counts from the reset (R9). That the times of a conversion in progress and of the bookkeeping
count from it too is deduced (log 19); that rst is the input of one step and leaves host, codec, grain and history
alone is the model's choice (log 19), and so is that this holds of a transport which an earlier reset has left
unspecified (R156; log 36). -/
def Obligations.ResetWinsAndClears : Prop :=
  ∀ s : State, s.rst = true → ∃ t, step s = .next t
    ∧ t.seq = {
        busy := false, op := 0#8, a := 0#16, b := 0#16, upc := 0#4, t := 0#8, tLive := false, r := 0#16
        rLive := false, res := 0#16, resLive := false, tmr := 0, phase := .idle, rspValid := false
        rspData := 0#16, rspStatus := .ok }
    ∧ t.port = { tReq := false, tKind := 0#2, tW0 := 0#8, tW1 := 0#8, tRlen := 0#2 }
    ∧ t.cmdReady = true ∧ t.rst = false ∧ t.cfg = s.cfg ∧ t.grain = s.grain ∧ t.host = s.host
    ∧ t.codecIn = s.codecIn ∧ t.codecOut = s.codecOut
    ∧ t.env.now = 0 ∧ t.env.history = s.env.history
    ∧ (s.seq.busy = false → s.port.tReq = false → t.env = { s.env with
      transport := .uninitialised
      now := 0
      pending := s.env.pending.map fun p => (p.1 - s.env.now, p.2)
      ghost := {
        biasOn := s.env.ghost.biasOn.map fun b => b - (s.env.now : Int)
        trig := s.env.ghost.trig.map fun b => b - (s.env.now : Int)
        trigSettled := s.env.ghost.trigSettled
        completion := s.env.ghost.completion.map fun b => b - (s.env.now : Int)
        resultValid := s.env.ghost.resultValid } })

/-- R156: a reset during a command, or with a handshake open, gives no response, drops the handshake, and leaves the
chip's contents unspecified: no byte of the chip written before is known after. The model's choices (log 18): the
dropped operation takes its answer with it, the later answers and the history stand, and the validity bookkeeping
forgets. `now` counts from the reset (R9). -/
def Obligations.ResetWhileBusyForgetsTheChip : Prop :=
  ∀ s : State, s.rst = true → (s.seq.busy = true ∨ s.port.tReq = true) → ∃ t, step s = .next t
    ∧ t.seq.busy = false ∧ t.seq.rspValid = false ∧ t.port.tReq = false
    ∧ t.env.transport = .dropped ∧ (∀ a, Memory.read t.env.mem a = none)
    ∧ (s.port.tReq = true → ∀ k, t.env.answerAt k = s.env.answerAt (k + 1))
    ∧ (s.port.tReq = false → ∀ k, t.env.answerAt k = s.env.answerAt k)
    ∧ t.env.ghost = Ghost.none ∧ t.env.history = s.env.history ∧ t.env.now = 0

/-- R34, R152: the state the machine starts in. The values the spec gives, not the model's own fields. -/
def Obligations.ResetStateIsIdle : Prop :=
  State.reset.seq.busy = false ∧ State.reset.seq.op = 0#8 ∧ State.reset.seq.a = 0#16
    ∧ State.reset.seq.b = 0#16 ∧ State.reset.seq.upc = 0#4 ∧ State.reset.seq.tmr = 0
    ∧ State.reset.seq.phase = .idle ∧ State.reset.seq.rspValid = false ∧ State.reset.seq.rspData = 0#16
    ∧ State.reset.seq.rspStatus = .ok ∧ State.reset.port.tReq = false ∧ State.reset.seq.tLive = false
    ∧ State.reset.seq.rLive = false ∧ State.reset.seq.resLive = false
    ∧ State.reset.env.transport = .uninitialised ∧ Inv State.reset

/-! ## The transport micro-operations in front of the oracle -/

/-- R97, R52: INIT completes, carries no bytes, touches no chip register, and advances `upc`.
The port's outputs once `t_req` has fallen are the model's choice (log 12). -/
def Obligations.InitCompletes : Prop :=
  ∀ (s : State) (d : Nat), s.env.kind = .oracle → (s.env.answerAt 0).duration = some d →
    ∃ w0 w1, exec .initTransport s = .next { s with
      seq := { s.seq with upc := s.seq.upc + 1#4, phase := s.seq.phaseNext s.cfg.biasNormallyOff }
      port := { tReq := false, tKind := 0#2, tW0 := w0, tW1 := w1, tRlen := 0#2 }
      env := { s.env.passed 1 0 [(some .init, d)] with transport := .ready } }

/-- R98, R52, R72: RD8 under each of its names completes: one read frame of one response byte, the byte into
T, `upc` advanced, R and everything else as it was.
The port's outputs once `t_req` has fallen are the model's choice (log 12). -/
def Obligations.ReadByteCompletes : Prop :=
  ∀ (i : Instr) (a : Byte) (s : State) (d : Nat),
    read1Addr i = some a → s.env.kind = .oracle → (s.env.answerAt 0).duration = some d →
    ∃ w1, exec i s = .next { s with
      seq := { s.seq with
        t := s.env.byte0 0, tLive := true, upc := s.seq.upc + 1#4
        phase := s.seq.phaseNext s.cfg.biasNormallyOff }
      port := { tReq := false, tKind := 2#2, tW0 := a &&& 0x7F#8, tW1 := w1, tRlen := 1#2 }
      env := s.env.passed 1 0 [(some (.writeThenRead (a &&& 0x7F#8) 1 [s.env.byte0 0]), d)] }

/-- R99, R52, R38, R72: RD16 under each of its names completes: one read frame of two response bytes, the first
byte the most significant of R, T and everything else as it was.
The port's outputs once `t_req` has fallen are the model's choice (log 12). -/
def Obligations.ReadWordCompletes : Prop :=
  ∀ (i : Instr) (a : Byte) (s : State) (d : Nat),
    read2Addr i = some a → s.env.kind = .oracle → (s.env.answerAt 0).duration = some d →
    ∃ w1, exec i s = .next { s with
      seq := { s.seq with
        r := ((s.env.byte0 0).setWidth 16 <<< 8) ||| (s.env.byte1 0).setWidth 16, rLive := true
        upc := s.seq.upc + 1#4, phase := s.seq.phaseNext s.cfg.biasNormallyOff }
      port := { tReq := false, tKind := 2#2, tW0 := a &&& 0x7F#8, tW1 := w1, tRlen := 2#2 }
      env := s.env.passed 1 0
        [(some (.writeThenRead (a &&& 0x7F#8) 2 [s.env.byte0 0, s.env.byte1 0]), d)] }

/-- R100, R52, R73: WR8 under each of its names completes: one write frame, T and everything else as it was.
The port's outputs once `t_req` has fallen are the model's choice (log 12). -/
def Obligations.WriteByteCompletes : Prop :=
  ∀ (i : Instr) (a v : Byte) (s : State) (d : Nat),
    writeAddr i = some (a, v) → s.env.kind = .oracle → (s.env.answerAt 0).duration = some d →
    exec i s = .next { s with
      seq := { s.seq with upc := s.seq.upc + 1#4, phase := s.seq.phaseNext s.cfg.biasNormallyOff }
      port := { tReq := false, tKind := 1#2, tW0 := a ||| 0x80#8, tW1 := v, tRlen := 0#2 }
      env := s.env.passed 1 0 [(some (.write (a ||| 0x80#8) v), d)] }

/-- R138: a transport operation that never completes is a hang: the request stays raised and is the request of
this instruction, nothing of the block has moved, and time goes on. So it is in front of the oracle, and in front
of ENV-REF where that would serve the request. A request ENV-REF refuses is refused without waiting for an answer:
the model's choice, as is the hang's form (log 13; injection before settling: log 15). -/
def Obligations.UnansweredFrameHangs : Prop :=
  ∀ (i : Instr) (s : State), i.wellFormed = true →
    (i = .initTransport ∨ (read1Addr i).isSome = true ∨ (read2Addr i).isSome = true
      ∨ (writeAddr i).isSome = true) →
    (s.env.answerAt 0).duration = none →
    ((s.env.kind = .oracle ∨ i = .initTransport
        ∨ (s.env.transport = .ready
          ∧ (∀ a, read1Addr i = some a → a.toNat ≤ 0x07)
          ∧ (∀ a, read2Addr i = some a → a.toNat + 1 ≤ 0x07)
          ∧ ∀ a v, writeAddr i = some (a, v) → a.toNat ≤ 0x07
            ∧ ((a ≠ s.cfg.aConfig ∧ isThresholdAddr s.cfg a = true)
              ∨ (a = s.cfg.aConfig ∧ (v &&& s.cfg.m1Shot = 0#8
                ∨ ((s.env.injectNext s.cfg).settle s.cfg s.env.now).pending = none))))) →
      ∃ p : TPort, p.tReq = true ∧ decode p.word = .ok i
        ∧ exec i s = .next { s with port := p, env := { s.env with now := s.env.now + 1 } })
    ∧ (s.env.kind = .envRef → s.env.transport = .ready →
      (∀ a, read1Addr i = some a → 0x07 < a.toNat → exec i s = .refused .envRefReadAddress)
        ∧ (∀ a, read2Addr i = some a → 0x07 < a.toNat + 1 → exec i s = .refused .envRefReadAddress)
        ∧ ∀ a v, writeAddr i = some (a, v) →
          (0x07 < a.toNat → exec i s = .refused .envRefWriteAddress)
            ∧ (a.toNat ≤ 0x07 → a ≠ s.cfg.aConfig → isThresholdAddr s.cfg a = false →
              exec i s = .refused .envRefWriteAddress)
            ∧ (a.toNat ≤ 0x07 → a = s.cfg.aConfig → v &&& s.cfg.m1Shot ≠ 0#8 →
              ((s.env.injectNext s.cfg).settle s.cfg s.env.now).pending ≠ none →
              exec i s = .refused .envRefOneShotWhilePending))

/-! ## ENV-REF -/

/-- R54: settling. A conversion whose time has come puts its word into the result pair and clears the 1-shot
bit; no other register moves. Before its time nothing happens. -/
def Obligations.SettlingCompletesTheConversion : Prop :=
  ∀ (cfg : Config) (e : Env) (c time : Nat) (w : Word), cfg.refMapOk = true → e.pending = some (c, w) →
    (c ≤ time →
      (e.settle cfg time).pending = none
        ∧ (e.settle cfg time).creg cfg.aRtdMsb = w.extractLsb' 8 8
        ∧ (e.settle cfg time).creg cfg.aRtdLsb = w.extractLsb' 0 8
        ∧ (e.settle cfg time).creg cfg.aConfig = e.creg cfg.aConfig &&& ~~~cfg.m1Shot
        ∧ ∀ a, a ≠ cfg.aRtdMsb → a ≠ cfg.aRtdLsb → a ≠ cfg.aConfig →
          (e.settle cfg time).creg a = e.creg a)
      ∧ (time < c → e.settle cfg time = e)

/-- R55, R44: ENV-REF, an initialised transport: a read at 0x00 to 0x07 returns the settled registers and
changes none, nor the pending conversion, nor the transport; any other is refused. That what is injected (R59)
comes before the settling, and both before the operation, is the model's choice (log 15). -/
def Obligations.EnvRefServesReads : Prop :=
  ∀ (i : Instr) (a : Byte) (s : State) (d : Nat),
    s.env.kind = .envRef → s.env.transport = .ready → (s.env.answerAt 0).duration = some d →
    (read1Addr i = some a →
      (a.toNat ≤ 0x07 → ∃ t, exec i s = .next t
        ∧ t.seq = { s.seq with
            t := ((s.env.injectNext s.cfg).settle s.cfg s.env.now).creg a, tLive := true
            upc := s.seq.upc + 1#4, phase := s.seq.phaseNext s.cfg.biasNormallyOff }
        ∧ (∀ k, t.env.creg k = ((s.env.injectNext s.cfg).settle s.cfg s.env.now).creg k)
        ∧ t.env.pending = ((s.env.injectNext s.cfg).settle s.cfg s.env.now).pending
        ∧ t.env.transport = .ready ∧ t.env.now = s.env.now + d)
      ∧ (0x07 < a.toNat → exec i s = .refused .envRefReadAddress))
    ∧ (read2Addr i = some a →
      (a.toNat + 1 ≤ 0x07 → ∃ t, exec i s = .next t
        ∧ t.seq = { s.seq with
            r := ((((s.env.injectNext s.cfg).settle s.cfg s.env.now).creg a).setWidth 16 <<< 8)
              ||| (((s.env.injectNext s.cfg).settle s.cfg s.env.now).creg (a + 1#8)).setWidth 16
            rLive := true
            upc := s.seq.upc + 1#4, phase := s.seq.phaseNext s.cfg.biasNormallyOff }
        ∧ (∀ k, t.env.creg k = ((s.env.injectNext s.cfg).settle s.cfg s.env.now).creg k)
        ∧ t.env.pending = ((s.env.injectNext s.cfg).settle s.cfg s.env.now).pending
        ∧ t.env.transport = .ready ∧ t.env.now = s.env.now + d)
      ∧ (0x07 < a.toNat + 1 → exec i s = .refused .envRefReadAddress))

/-- R56: ENV-REF, a write of `v` to the configuration register: what it stores, that a fault-clear write zeroes
the fault status, that a 1-shot write starts a conversion of 1 to CONV_TICKS ticks or is refused while one is
pending; no other register moves, and the transport stays ready. -/
def Obligations.EnvRefConfigurationWrite : Prop :=
  ∀ (i : Instr) (v : Byte) (s : State) (d : Nat),
    writeAddr i = some (s.cfg.aConfig, v) → s.cfg.wf = true → s.cfg.refMapOk = true →
    s.env.kind = .envRef → s.env.transport = .ready → (s.env.answerAt 0).duration = some d →
    (v &&& s.cfg.m1Shot ≠ 0#8 →
      ((s.env.injectNext s.cfg).settle s.cfg s.env.now).pending ≠ none →
      exec i s = .refused .envRefOneShotWhilePending)
    ∧ ((v &&& s.cfg.m1Shot = 0#8
        ∨ ((s.env.injectNext s.cfg).settle s.cfg s.env.now).pending = none) →
      ∃ t, exec i s = .next t
        ∧ t.seq = { s.seq with
            upc := s.seq.upc + 1#4, phase := s.seq.phaseNext s.cfg.biasNormallyOff }
        ∧ t.env.transport = .ready ∧ t.env.now = s.env.now + d
        ∧ t.env.creg s.cfg.aConfig
          = (if v &&& s.cfg.mFclr = 0#8 then v else v &&& ~~~s.cfg.mFclr &&& ~~~s.cfg.mFcycle)
        ∧ (v &&& s.cfg.mFclr ≠ 0#8 → t.env.creg s.cfg.aFault = 0x00#8)
        ∧ (∀ k, k ≠ s.cfg.aConfig → (k ≠ s.cfg.aFault ∨ v &&& s.cfg.mFclr = 0#8) →
          t.env.creg k = ((s.env.injectNext s.cfg).settle s.cfg s.env.now).creg k)
        ∧ (v &&& s.cfg.m1Shot = 0#8 →
          t.env.pending = ((s.env.injectNext s.cfg).settle s.cfg s.env.now).pending)
        ∧ (v &&& s.cfg.m1Shot ≠ 0#8 → ∃ n w, 1 ≤ n ∧ n ≤ s.cfg.convTicks
          ∧ t.env.pending = some (s.env.now + d + n, w)))

/-- R57: ENV-REF, any other write: a threshold byte is stored and no other register moves, nor the pending
conversion, nor the transport; everything else is refused. -/
def Obligations.EnvRefOtherWrites : Prop :=
  ∀ (i : Instr) (a v : Byte) (s : State) (d : Nat),
    writeAddr i = some (a, v) → a ≠ s.cfg.aConfig → s.cfg.wf = true → s.cfg.refMapOk = true →
    s.env.kind = .envRef → s.env.transport = .ready → (s.env.answerAt 0).duration = some d →
    ((a = s.cfg.aLthrLsb ∨ a = s.cfg.aLthrMsb ∨ a = s.cfg.aHthrLsb ∨ a = s.cfg.aHthrMsb) →
      ∃ t, exec i s = .next t
        ∧ t.seq = { s.seq with
            upc := s.seq.upc + 1#4, phase := s.seq.phaseNext s.cfg.biasNormallyOff }
        ∧ t.env.transport = .ready ∧ t.env.now = s.env.now + d
        ∧ t.env.pending = ((s.env.injectNext s.cfg).settle s.cfg s.env.now).pending
        ∧ t.env.creg a = v
        ∧ ∀ k, k ≠ a → t.env.creg k = ((s.env.injectNext s.cfg).settle s.cfg s.env.now).creg k)
    ∧ ((a ≠ s.cfg.aLthrLsb ∧ a ≠ s.cfg.aLthrMsb ∧ a ≠ s.cfg.aHthrLsb ∧ a ≠ s.cfg.aHthrMsb) →
      exec i s = .refused .envRefWriteAddress)

/-- R60: ENV-REF, any frame before any `Init` is the fault `TransportNotInitialised`, at the request, whatever the
transport would answer; a frame on a transport whose handshake a reset has dropped is refused (R156; the model's
choice, log 18, and log 13 for an unanswered one); an answered `Init` is served whatever the transport's state,
makes it ready and, injection and settling aside, which come before it by the model's choice (log 15), changes no
register. -/
def Obligations.UninitialisedTransportFaults : Prop :=
  ∀ (i : Instr) (s : State), s.env.kind = .envRef →
    (s.env.transport = .uninitialised →
      ((read1Addr i).isSome = true ∨ (read2Addr i).isSome = true ∨ (writeAddr i).isSome = true) →
      exec i s = .fault .transportNotInitialised)
    ∧ (s.env.transport = .dropped →
      ((read1Addr i).isSome = true ∨ (read2Addr i).isSome = true ∨ (writeAddr i).isSome = true) →
      exec i s = .refused .transportDropped)
    ∧ ∀ d, (s.env.answerAt 0).duration = some d → ∃ t, exec .initTransport s = .next t ∧ t.env.transport = .ready
      ∧ (∀ k, t.env.creg k = ((s.env.injectNext s.cfg).settle s.cfg s.env.now).creg k)
      ∧ t.env.pending = ((s.env.injectNext s.cfg).settle s.cfg s.env.now).pending
      ∧ t.env.now = s.env.now + d

/-! ## The commands in front of the oracle -/

/-- R106 against the oracle: the thirteen transport operations of BEGIN in their order, each write a function
of the byte read just before it, the response 0x0000; nothing else of the block moves but T and RES.
RES takes the value presented, 0x0000 (R20), which the model deduces to hold for this command too (log 10).
The port's outputs once `t_req` has fallen are the model's choice (log 12). -/
def Obligations.BeginCompletes : Prop :=
  ∀ (mode : WireMode) (ignA : BitVec 14) (ignB : Word) (s : State), ReadyOracle s → s.env.returns 13 →
    exec (.beginCmd mode ignA ignB) s = .next { s with
      seq := { s.seq.answered 0x00#8 (ignA ++ wireCode mode) ignB 0x0000#16 .ok with
        t := s.env.byte0 11, tLive := true }
      port := {
        tReq := false, tKind := 1#2, tW0 := s.cfg.aConfig ||| 0x80#8
        tW1 := (s.env.byte0 11 &&& ~~~s.cfg.clearFaultClearMask) ||| s.cfg.mFclr, tRlen := 0#2 }
      env := { s.env.passed 13 1
        [(some .init, s.env.dur 0),
          (some (.writeThenRead (s.cfg.aConfig &&& 0x7F#8) 1 [s.env.byte0 1]), s.env.dur 1),
          (some (.write (s.cfg.aConfig ||| 0x80#8)
            (if mode = .three then s.env.byte0 1 ||| s.cfg.m3Wire else s.env.byte0 1 &&& ~~~s.cfg.m3Wire)),
            s.env.dur 2),
          (some (.writeThenRead (s.cfg.aConfig &&& 0x7F#8) 1 [s.env.byte0 3]), s.env.dur 3),
          (some (.write (s.cfg.aConfig ||| 0x80#8) (s.env.byte0 3 &&& ~~~s.cfg.mBias)), s.env.dur 4),
          (some (.writeThenRead (s.cfg.aConfig &&& 0x7F#8) 1 [s.env.byte0 5]), s.env.dur 5),
          (some (.write (s.cfg.aConfig ||| 0x80#8) (s.env.byte0 5 &&& ~~~s.cfg.mAuto)), s.env.dur 6),
          (some (.write (s.cfg.aLthrLsb ||| 0x80#8) 0x00#8), s.env.dur 7),
          (some (.write (s.cfg.aLthrMsb ||| 0x80#8) 0x00#8), s.env.dur 8),
          (some (.write (s.cfg.aHthrLsb ||| 0x80#8) 0xFF#8), s.env.dur 9),
          (some (.write (s.cfg.aHthrMsb ||| 0x80#8) 0xFF#8), s.env.dur 10),
          (some (.writeThenRead (s.cfg.aConfig &&& 0x7F#8) 1 [s.env.byte0 11]), s.env.dur 11),
          (some (.write (s.cfg.aConfig ||| 0x80#8)
            ((s.env.byte0 11 &&& ~~~s.cfg.clearFaultClearMask) ||| s.cfg.mFclr)), s.env.dur 12),
          (some (.response 0x0000#16 .ok), s.env.lagAt 0)] with transport := .ready } }

/-- R107 and R95 against the oracle.
RES takes the value presented, 0x0000 (R20), which the model deduces to hold for this command too (log 10).
The port's outputs once `t_req` has fallen are the model's choice (log 12). -/
def Obligations.SetWiresCompletes : Prop :=
  ∀ (mode : WireMode) (ignA : BitVec 14) (ignB : Word) (s : State), ReadyOracle s → s.env.returns 2 →
    ∃ v, v = (if mode = .three then s.env.byte0 0 ||| s.cfg.m3Wire
        else s.env.byte0 0 &&& ~~~s.cfg.m3Wire)
      ∧ exec (.setWires mode ignA ignB) s = .next { s with
        seq := { s.seq.answered 0x06#8 (ignA ++ wireCode mode) ignB 0x0000#16 .ok with
          t := s.env.byte0 0, tLive := true }
        port := { tReq := false, tKind := 1#2, tW0 := s.cfg.aConfig ||| 0x80#8, tW1 := v, tRlen := 0#2 }
        env := s.env.passed 2 1
          [(some (.writeThenRead (s.cfg.aConfig &&& 0x7F#8) 1 [s.env.byte0 0]), s.env.dur 0),
            (some (.write (s.cfg.aConfig ||| 0x80#8) v), s.env.dur 1),
            (some (.response 0x0000#16 .ok), s.env.lagAt 0)] }

/-- R108 against the oracle.
RES takes the value presented, 0x0000 (R20), which the model deduces to hold for this command too (log 10).
The port's outputs once `t_req` has fallen are the model's choice (log 12). -/
def Obligations.EnableBiasCompletes : Prop :=
  ∀ (on : Bool) (ignA : BitVec 15) (ignB : Word) (s : State), ReadyOracle s → s.env.returns 2 →
    ∃ v, v = (if on = true then s.env.byte0 0 ||| s.cfg.mBias else s.env.byte0 0 &&& ~~~s.cfg.mBias)
      ∧ exec (.enableBias on ignA ignB) s = .next { s with
        seq := { s.seq.answered 0x04#8 (ignA ++ BitVec.ofBool on) ignB 0x0000#16 .ok with
          t := s.env.byte0 0, tLive := true }
        port := { tReq := false, tKind := 1#2, tW0 := s.cfg.aConfig ||| 0x80#8, tW1 := v, tRlen := 0#2 }
        env := s.env.passed 2 1
          [(some (.writeThenRead (s.cfg.aConfig &&& 0x7F#8) 1 [s.env.byte0 0]), s.env.dur 0),
            (some (.write (s.cfg.aConfig ||| 0x80#8) v), s.env.dur 1),
            (some (.response 0x0000#16 .ok), s.env.lagAt 0)] }

/-- R109 against the oracle.
RES takes the value presented, 0x0000 (R20), which the model deduces to hold for this command too (log 10).
The port's outputs once `t_req` has fallen are the model's choice (log 12). -/
def Obligations.AutoConvertCompletes : Prop :=
  ∀ (on : Bool) (ignA : BitVec 15) (ignB : Word) (s : State), ReadyOracle s → s.env.returns 2 →
    ∃ v, v = (if on = true then s.env.byte0 0 ||| s.cfg.mAuto else s.env.byte0 0 &&& ~~~s.cfg.mAuto)
      ∧ exec (.autoConvert on ignA ignB) s = .next { s with
        seq := { s.seq.answered 0x05#8 (ignA ++ BitVec.ofBool on) ignB 0x0000#16 .ok with
          t := s.env.byte0 0, tLive := true }
        port := { tReq := false, tKind := 1#2, tW0 := s.cfg.aConfig ||| 0x80#8, tW1 := v, tRlen := 0#2 }
        env := s.env.passed 2 1
          [(some (.writeThenRead (s.cfg.aConfig &&& 0x7F#8) 1 [s.env.byte0 0]), s.env.dur 0),
            (some (.write (s.cfg.aConfig ||| 0x80#8) v), s.env.dur 1),
            (some (.response 0x0000#16 .ok), s.env.lagAt 0)] }

/-- R110, R39 against the oracle: four write frames, lower threshold first, low byte first, nothing read.
RES takes the value presented, 0x0000 (R20), which the model deduces to hold for this command too (log 10).
The port's outputs once `t_req` has fallen are the model's choice (log 12). -/
def Obligations.SetThresholdsCompletes : Prop :=
  ∀ (lower upper : Word) (s : State), ReadyOracle s → s.env.returns 4 →
    exec (.setThresholds lower upper) s = .next { s with
      seq := s.seq.answered 0x07#8 lower upper 0x0000#16 .ok
      port := {
        tReq := false, tKind := 1#2, tW0 := s.cfg.aHthrMsb ||| 0x80#8, tW1 := upper.extractLsb' 8 8
        tRlen := 0#2 }
      env := s.env.passed 4 1
        [(some (.write (s.cfg.aLthrLsb ||| 0x80#8) (lower.extractLsb' 0 8)), s.env.dur 0),
          (some (.write (s.cfg.aLthrMsb ||| 0x80#8) (lower.extractLsb' 8 8)), s.env.dur 1),
          (some (.write (s.cfg.aHthrLsb ||| 0x80#8) (upper.extractLsb' 0 8)), s.env.dur 2),
          (some (.write (s.cfg.aHthrMsb ||| 0x80#8) (upper.extractLsb' 8 8)), s.env.dur 3),
          (some (.response 0x0000#16 .ok), s.env.lagAt 0)] }

/-- R111, R112 against the oracle: one read frame of two bytes, the word into R, RES and the response.
The port's outputs once `t_req` has fallen are the model's choice (log 12). -/
def Obligations.GetThresholdsComplete : Prop :=
  ∀ (ignA ignB : Word) (s : State), ReadyOracle s → s.env.returns 1 →
    ∃ w, w = ((s.env.byte0 0).setWidth 16 <<< 8) ||| (s.env.byte1 0).setWidth 16
      ∧ (∃ w1, exec (.getLowerThreshold ignA ignB) s = .next { s with
        seq := { s.seq.answered 0x08#8 ignA ignB w .ok with
          r := w, rLive := true, res := w, resLive := true }
        port := { tReq := false, tKind := 2#2, tW0 := s.cfg.aLthrMsb &&& 0x7F#8, tW1 := w1, tRlen := 2#2 }
        env := s.env.passed 1 2
          [(some (.writeThenRead (s.cfg.aLthrMsb &&& 0x7F#8) 2 [s.env.byte0 0, s.env.byte1 0]), s.env.dur 0),
            (none, s.env.lagAt 0), (some (.response w .ok), s.env.lagAt 1)] })
      ∧ ∃ w1, exec (.getUpperThreshold ignA ignB) s = .next { s with
        seq := { s.seq.answered 0x09#8 ignA ignB w .ok with
          r := w, rLive := true, res := w, resLive := true }
        port := { tReq := false, tKind := 2#2, tW0 := s.cfg.aHthrMsb &&& 0x7F#8, tW1 := w1, tRlen := 2#2 }
        env := s.env.passed 1 2
          [(some (.writeThenRead (s.cfg.aHthrMsb &&& 0x7F#8) 2 [s.env.byte0 0, s.env.byte1 0]), s.env.dur 0),
            (none, s.env.lagAt 0), (some (.response w .ok), s.env.lagAt 1)] }

/-- R116 against the oracle: one read frame, the byte zero-extended into the response, no write.
The port's outputs once `t_req` has fallen are the model's choice (log 12). -/
def Obligations.ReadFaultCompletes : Prop :=
  ∀ (ignA ignB : Word) (s : State), ReadyOracle s → s.env.returns 1 →
    ∃ w1, exec (.readFault ignA ignB) s = .next { s with
      seq := { s.seq.answered 0x02#8 ignA ignB (0x00#8 ++ s.env.byte0 0) .ok with
        t := s.env.byte0 0, tLive := true, res := 0x00#8 ++ s.env.byte0 0, resLive := true }
      port := { tReq := false, tKind := 2#2, tW0 := s.cfg.aFault &&& 0x7F#8, tW1 := w1, tRlen := 1#2 }
      env := s.env.passed 1 2
        [(some (.writeThenRead (s.cfg.aFault &&& 0x7F#8) 1 [s.env.byte0 0]), s.env.dur 0),
          (none, s.env.lagAt 0), (some (.response (0x00#8 ++ s.env.byte0 0) .ok), s.env.lagAt 1)] }

/-- R117 against the oracle: a read-modify-write of the configuration register with the clear mask forced to 0
and the fault-clear bit set.
RES takes the value presented, 0x0000 (R20), which the model deduces to hold for this command too (log 10).
The port's outputs once `t_req` has fallen are the model's choice (log 12). -/
def Obligations.ClearFaultCompletes : Prop :=
  ∀ (ignA ignB : Word) (s : State), ReadyOracle s → s.env.returns 2 →
    ∃ v, v = (s.env.byte0 0 &&& ~~~s.cfg.clearFaultClearMask) ||| s.cfg.mFclr
      ∧ exec (.clearFault ignA ignB) s = .next { s with
        seq := { s.seq.answered 0x03#8 ignA ignB 0x0000#16 .ok with t := s.env.byte0 0, tLive := true }
        port := { tReq := false, tKind := 1#2, tW0 := s.cfg.aConfig ||| 0x80#8, tW1 := v, tRlen := 0#2 }
        env := s.env.passed 2 1
          [(some (.writeThenRead (s.cfg.aConfig &&& 0x7F#8) 1 [s.env.byte0 0]), s.env.dur 0),
            (some (.write (s.cfg.aConfig ||| 0x80#8) v), s.env.dur 1),
            (some (.response 0x0000#16 .ok), s.env.lagAt 0)] }

/-- R134, R121 to R129 against the oracle: the history of one READ_RTD, for both values of the flag, each write
a function of the byte read just before it, and the response `WORD_JOIN(b0, b1) >> 1`. The port's held outputs are
the model's (log 12). -/
def Obligations.ReadRtdCompletes : Prop :=
  ∀ (ignA ignB : Word) (s : State), ReadyOracle s →
    (s.cfg.biasNormallyOff = true → s.env.returns 7 →
      ∃ w, w = ((s.env.byte0 4).setWidth 16 <<< 8) ||| (s.env.byte1 4).setWidth 16
        ∧ exec (.readRtd ignA ignB) s = .next { s with
          seq := { s.seq.answered 0x01#8 ignA ignB (w >>> 1) .ok with
            t := s.env.byte0 5, tLive := true, r := w, rLive := true, res := w >>> 1, resLive := true }
          port := {
            tReq := false, tKind := 1#2, tW0 := s.cfg.aConfig ||| 0x80#8
            tW1 := s.env.byte0 5 &&& ~~~s.cfg.mBias, tRlen := 0#2 }
          env := s.env.passed 7 4
            [(none, s.env.lagAt 0),
              (some (.writeThenRead (s.cfg.aConfig &&& 0x7F#8) 1 [s.env.byte0 0]), s.env.dur 0),
              (some (.write (s.cfg.aConfig ||| 0x80#8) (s.env.byte0 0 ||| s.cfg.mBias)), s.env.dur 1),
              (some (.delayElapsed s.cfg.settleTicks), s.cfg.settleTicks),
              (some (.writeThenRead (s.cfg.aConfig &&& 0x7F#8) 1 [s.env.byte0 2]), s.env.dur 2),
              (some (.write (s.cfg.aConfig ||| 0x80#8) (s.env.byte0 2 ||| s.cfg.m1Shot)), s.env.dur 3),
              (some (.delayElapsed s.cfg.convTicks), s.cfg.convTicks),
              (some (.writeThenRead (s.cfg.aRtdMsb &&& 0x7F#8) 2 [s.env.byte0 4, s.env.byte1 4]),
                s.env.dur 4),
              (none, s.env.lagAt 1), (none, s.env.lagAt 2),
              (some (.writeThenRead (s.cfg.aConfig &&& 0x7F#8) 1 [s.env.byte0 5]), s.env.dur 5),
              (some (.write (s.cfg.aConfig ||| 0x80#8) (s.env.byte0 5 &&& ~~~s.cfg.mBias)), s.env.dur 6),
              (some (.response (w >>> 1) .ok), s.env.lagAt 3)] })
    ∧ (s.cfg.biasNormallyOff = false → s.env.returns 3 →
      ∃ w w1, w = ((s.env.byte0 2).setWidth 16 <<< 8) ||| (s.env.byte1 2).setWidth 16
        ∧ exec (.readRtd ignA ignB) s = .next { s with
          seq := { s.seq.answered 0x01#8 ignA ignB (w >>> 1) .ok with
            t := s.env.byte0 0, tLive := true, r := w, rLive := true, res := w >>> 1, resLive := true }
          port := {
            tReq := false, tKind := 2#2, tW0 := s.cfg.aRtdMsb &&& 0x7F#8, tW1 := w1, tRlen := 2#2 }
          env := s.env.passed 3 4
            [(none, s.env.lagAt 0),
              (some (.writeThenRead (s.cfg.aConfig &&& 0x7F#8) 1 [s.env.byte0 0]), s.env.dur 0),
              (some (.write (s.cfg.aConfig ||| 0x80#8) (s.env.byte0 0 ||| s.cfg.m1Shot)), s.env.dur 1),
              (some (.delayElapsed s.cfg.convTicks), s.cfg.convTicks),
              (some (.writeThenRead (s.cfg.aRtdMsb &&& 0x7F#8) 2 [s.env.byte0 2, s.env.byte1 2]),
                s.env.dur 2),
              (none, s.env.lagAt 1), (none, s.env.lagAt 2),
              (some (.response (w >>> 1) .ok), s.env.lagAt 3)] })

/-- R139: an illegal command word is accepted and answered with 0x0000 and `rsp_status` = 1: no transport
activity, no delay, no change of T, R, RES, TMR; in front of either environment, and whatever the transport
does. `phase` is IDLE after it, as after every response (R22), which changes it only in a state no run reaches.
That acceptance (R26) latches op, A and B of an illegal word too, and leaves T, R and RES dead, the model deduces
(log 11). -/
def Obligations.IllegalWordIsAnswered : Prop :=
  ∀ (i : Instr) (op : Byte) (a b : Word) (s : State),
    isIllegal i = true → commandFields i = some (op, a, b) → s.seq.busy = false → s.port.tReq = false →
    exec i s = .next { s with
      seq := s.seq.answered op a b 0x0000#16 .illegal
      env := s.env.passed 0 1 [(some (.response 0x0000#16 .illegal), s.env.lagAt 0)] }

/-- R113: with `m` the one mask the command names and `t` the byte its RD8 returned, the byte its WR8 sends
agrees with `t` outside `m` and has `m` set or clear as the operand says. For every oracle. -/
def Obligations.SettersAlterOnlyTheirField : Prop :=
  ∀ (i : Instr) (m : Byte) (want : Bool) (s : State), ReadyOracle s → s.env.returns 2 →
    ((∃ on x y, i = .enableBias on x y ∧ m = s.cfg.mBias ∧ want = on)
      ∨ (∃ on x y, i = .autoConvert on x y ∧ m = s.cfg.mAuto ∧ want = on)
      ∨ (∃ mode x y, i = .setWires mode x y ∧ m = s.cfg.m3Wire ∧ want = (mode == .three))) →
    ∃ t v b0 b1 b2 e0 e1 e2, exec i s = .next t
      ∧ t.env.history = s.env.history ++
        [⟨.writeThenRead (s.cfg.aConfig &&& 0x7F#8) 1 [s.env.byte0 0], b0, e0⟩,
          ⟨.write (s.cfg.aConfig ||| 0x80#8) v, b1, e1⟩, ⟨.response 0x0000#16 .ok, b2, e2⟩]
      ∧ v &&& ~~~m = s.env.byte0 0 &&& ~~~m ∧ v &&& m = (if want = true then m else 0#8)

/-! ## The commands in front of ENV-REF -/

/-- R114: SET_THRESHOLDS, then GET_LOWER_THRESHOLD and GET_UPPER_THRESHOLD respond with exactly the two
words. -/
def Obligations.ThresholdRoundTrip : Prop :=
  ∀ (lower upper : Word) (s : State), ReadyRef s → s.env.returns 6 →
    ∃ t, exec (.setThresholds lower upper) s = .next t ∧ ∀ x y x' y', ∃ u v,
      exec (.getLowerThreshold x y) t = .next u ∧ u.seq.rspData = lower ∧ u.seq.rspStatus = .ok
        ∧ exec (.getUpperThreshold x' y') u = .next v ∧ v.seq.rspData = upper ∧ v.seq.rspStatus = .ok

/-- R115: ENABLE_BIAS, AUTO_CONVERT and SET_WIRES leave the configuration register with their own field as the
operand says and every other bit as it was, and no other register moved; the prior byte has neither the
fault-clear nor the 1-shot bit set (R115's exception). -/
def Obligations.ConfigurationRoundTrip : Prop :=
  ∀ (i : Instr) (m : Byte) (want : Bool) (s : State), ReadyRef s → s.env.returns 2 →
    s.env.creg s.cfg.aConfig &&& s.cfg.mFclr = 0#8 → s.env.creg s.cfg.aConfig &&& s.cfg.m1Shot = 0#8 →
    ((∃ on x y, i = .enableBias on x y ∧ m = s.cfg.mBias ∧ want = on)
      ∨ (∃ on x y, i = .autoConvert on x y ∧ m = s.cfg.mAuto ∧ want = on)
      ∨ (∃ mode x y, i = .setWires mode x y ∧ m = s.cfg.m3Wire ∧ want = (mode == .three))) →
    ∃ t, exec i s = .next t ∧ t.seq.rspData = 0x0000#16
      ∧ t.env.creg s.cfg.aConfig
        = (if want = true then s.env.creg s.cfg.aConfig ||| m else s.env.creg s.cfg.aConfig &&& ~~~m)
      ∧ ∀ k, k ≠ s.cfg.aConfig → t.env.creg k = s.env.creg k

/-- R119: CLEAR_FAULT, with no fault or after any injected fault, leaves READ_FAULT at 0x0000 and the bias,
wiring, mode and filter bits as they were. The clear mask is one R117 allows. -/
def Obligations.FaultClearIsIdempotent : Prop :=
  ∀ (m : Byte) (x y x' y' : Word) (s : State), ReadyRef s → s.env.returns 3 →
    s.cfg.clearMaskPreserves = true →
    ∃ t u, exec (.clearFault x y) { s with env := s.env.injectFault s.cfg m } = .next t
      ∧ t.env.creg s.cfg.aConfig &&& (s.cfg.mBias ||| s.cfg.m3Wire ||| s.cfg.mAuto ||| s.cfg.mFilt)
        = s.env.creg s.cfg.aConfig &&& (s.cfg.mBias ||| s.cfg.m3Wire ||| s.cfg.mAuto ||| s.cfg.mFilt)
      ∧ exec (.readFault x' y') t = .next u ∧ u.seq.rspData = 0x0000#16

/-- R155: the state after BEGIN(mode), from any state of the transport, with no conversion pending, no fault
injected and the 1-shot bit clear (95 section 2.7: with that bit set ENV-REF refuses). -/
def Obligations.BeginLeavesTheSafeDefault : Prop :=
  ∀ (mode : WireMode) (x : BitVec 14) (y : Word) (s : State),
    s.seq.busy = false → s.port.tReq = false → s.seq.tmr = 0 → s.env.kind = .envRef →
    s.env.pending = none → s.env.injections = [] → s.cfg.wf = true → s.cfg.refMapOk = true →
    s.cfg.clearMaskPreserves = true → s.env.returns 13 →
    s.env.creg s.cfg.aConfig &&& s.cfg.m1Shot = 0#8 →
    ∃ t, exec (.beginCmd mode x y) s = .next t
      ∧ t.seq.busy = false ∧ t.seq.rspValid = true ∧ t.seq.rspData = 0x0000#16 ∧ t.seq.rspStatus = .ok
      ∧ t.env.transport = .ready ∧ t.env.pending = none
      ∧ t.env.creg s.cfg.aConfig &&& s.cfg.m3Wire = (if mode = .three then s.cfg.m3Wire else 0#8)
      ∧ t.env.creg s.cfg.aConfig
        &&& (s.cfg.mBias ||| s.cfg.mAuto ||| s.cfg.m1Shot ||| s.cfg.mFcycle ||| s.cfg.mFclr) = 0#8
      ∧ t.env.creg s.cfg.aConfig &&& s.cfg.mFilt = s.env.creg s.cfg.aConfig &&& s.cfg.mFilt
      ∧ t.env.creg s.cfg.aLthrMsb = 0x00#8 ∧ t.env.creg s.cfg.aLthrLsb = 0x00#8
      ∧ t.env.creg s.cfg.aHthrMsb = 0xFF#8 ∧ t.env.creg s.cfg.aHthrLsb = 0xFF#8
      ∧ t.env.creg s.cfg.aFault = 0x00#8
      ∧ t.env.creg s.cfg.aRtdMsb = s.env.creg s.cfg.aRtdMsb
      ∧ t.env.creg s.cfg.aRtdLsb = s.env.creg s.cfg.aRtdLsb

/-- R133's consequence with R58: with `BIAS_NORMALLY_OFF` = 1 a READ_RTD against ENV-REF reads a valid result,
responds with the measurement shifted right by one, and leaves the bias and 1-shot bits 0. The 1-shot bit is
clear before, and the recorded `bias_on` does not lie in the future. What counts as `bias_on`, `trig` and valid is
the model's reading of R58 (log 17). -/
def Obligations.ReadRtdReadsAValidResult : Prop :=
  ∀ (x y : Word) (s : State), ReadyRef s → s.env.returns 7 → s.cfg.biasNormallyOff = true →
    s.env.creg s.cfg.aConfig &&& s.cfg.m1Shot = 0#8 →
    (∀ b, s.env.ghost.biasOn = some b → b ≤ (s.env.now : Int)) →
    ∃ t, ∃ w : Word, exec (.readRtd x y) s = .next t
      ∧ t.seq.rspData = w >>> 1 ∧ t.seq.rspStatus = .ok ∧ t.seq.busy = false
      ∧ (∀ d w' rest, s.env.conversions = (d, w') :: rest → w = w')
      ∧ t.env.creg s.cfg.aRtdMsb = w.extractLsb' 8 8 ∧ t.env.creg s.cfg.aRtdLsb = w.extractLsb' 0 8
      ∧ t.env.ghost.resultValid = true ∧ t.env.pending = none
      ∧ t.env.creg s.cfg.aConfig &&& (s.cfg.m1Shot ||| s.cfg.mBias) = 0#8

/-- R153, R60: a command issued before BEGIN is executed as written, and its first frame is the fault
`TransportNotInitialised`, whatever the transport would answer. -/
def Obligations.CommandsBeforeBeginFault : Prop :=
  ∀ (i : Instr) (s : State), isCommand i = true → (∀ mode x y, i ≠ .beginCmd mode x y) →
    s.seq.busy = false → s.port.tReq = false → s.env.kind = .envRef →
    s.env.transport = .uninitialised →
    exec i s = .fault .transportNotInitialised

/-! ## Timing -/

/-- R101: a delay of `n` ticks lasts exactly `n` ticks with no transport activity, and ends with TMR at 0 and `upc`
advanced; edge by edge, TMR takes `n` at entry, then counts down by one a tick, and the delay ends at the tick
that brings it to 0. That there are edges is the grain's choice (log 1); that the load is an edge of its own which
takes no time, that TMR = 0 marks the entry, and that the tick to 0 ends the micro-step, are log 23's. -/
def Obligations.DelayLastsItsTicks : Prop :=
  ∀ (n : Nat) (s : State), 1 ≤ n →
    (s.seq.tmr = 0 → delay n s = { s with
      seq := { s.seq with
        tmr := 0, upc := s.seq.upc + 1#4, phase := s.seq.phaseNext s.cfg.biasNormallyOff }
      env := { s.env with
        now := s.env.now + n
        history := s.env.history ++ [⟨.delayElapsed n, s.env.now, s.env.now + n⟩] } })
    ∧ (s.seq.tmr = 0 → delayEdge n s = { s with seq := { s.seq with tmr := n } })
    ∧ (1 < s.seq.tmr → delayEdge n s = { s with
      seq := { s.seq with tmr := s.seq.tmr - 1 }, env := { s.env with now := s.env.now + 1 } })
    ∧ (s.seq.tmr = 1 → (delayEdge n s).seq.tmr = 0 ∧ (delayEdge n s).seq.upc = s.seq.upc + 1#4
      ∧ (delayEdge n s).env.now = s.env.now + 1 ∧ (delayEdge n s).port = s.port
      ∧ (delayEdge n s).env.mem = s.env.mem)

/-- R133: for every environment and every transport timing, a READ_RTD that has responded requested its result
read at least CONV_TICKS after the trigger write returned, responded no earlier, and with the flag set
requested the trigger's read at least SETTLE_TICKS after the bias write returned. Its events are those of R134:
each write is a function of the byte its own read returned. -/
def Obligations.ReadRtdKeepsTheDelays : Prop :=
  ∀ (x y : Word) (s t : State), s.seq.busy = false → s.port.tReq = false → s.seq.tmr = 0 →
    exec (.readRtd x y) s = .next t → t.seq.busy = false →
    ∃ pre post : List Event, ∃ rd4 w5 dly rd7 rsp : Event, ∃ t2 b0 b1 : Byte,
      t.env.history = s.env.history ++ pre ++ [rd4, w5, dly, rd7] ++ post ++ [rsp]
        ∧ rd4.what = .writeThenRead (addrRd s.cfg.aConfig) 1 [t2]
        ∧ w5.what = .write (addrWr s.cfg.aConfig) (t2 ||| s.cfg.m1Shot)
        ∧ dly.what = .delayElapsed s.cfg.convTicks
        ∧ rd7.what = .writeThenRead (addrRd s.cfg.aRtdMsb) 2 [b0, b1]
        ∧ rsp.what = .response (wordJoin b0 b1 >>> 1) .ok
        ∧ w5.ended + s.cfg.convTicks ≤ rd7.began ∧ rd7.began ≤ rsp.began
        ∧ (s.cfg.biasNormallyOff = true →
          ∃ rd1 w2 dly3 rd10 w11 : Event, ∃ t1 t3 : Byte,
            pre = [rd1, w2, dly3] ∧ post = [rd10, w11]
              ∧ rd1.what = .writeThenRead (addrRd s.cfg.aConfig) 1 [t1]
              ∧ w2.what = .write (addrWr s.cfg.aConfig) (t1 ||| s.cfg.mBias)
              ∧ dly3.what = .delayElapsed s.cfg.settleTicks
              ∧ w2.ended + s.cfg.settleTicks ≤ rd4.began
              ∧ rd10.what = .writeThenRead (addrRd s.cfg.aConfig) 1 [t3]
              ∧ w11.what = .write (addrWr s.cfg.aConfig) (t3 &&& ~~~s.cfg.mBias))
        ∧ (s.cfg.biasNormallyOff = false → pre = [] ∧ post = [])

/-! ## The whole machine -/

/-- Every step keeps the invariant: Idle looks idle (R14, R17, R21, R23), a busy block stands at an entry of its
micro-program with live operands, the phase of R121, TMR counting only in a delay, and an open handshake that
is the entry's own; the chip's register space is in canonical form. -/
def Obligations.StepKeepsTheInvariant : Prop :=
  ∀ s t : State, Inv s → step s = .next t → Inv t

/-- Every step keeps the register space in canonical form, from any state. -/
def Obligations.StepKeepsMemoryCanonical : Prop :=
  ∀ s t : State, Memory.wf s.env.mem = true → step s = .next t → Memory.wf t.env.mem = true

/-- U14 and R137: the block raises no fault. From a state that meets the invariant the only fault of a step is
the transport model's, a frame before `Init` (R60): no micro-step reads T, R or RES while it is dead (R18), and
`upc` never leaves its micro-program (R17). -/
def Obligations.OnlyTheTransportFaults : Prop :=
  ∀ (s : State) (f : Fault), Inv s → step s = .fault f → f = .transportNotInitialised

/-- R52: in front of the oracle 'whether the sequencer has a next step never depends on the bytes': there always
is one. -/
def Obligations.OracleNeverStopsTheBlock : Prop :=
  ∀ s : State, Inv s → s.env.kind = .oracle → s.codecIn = none → ∃ t, step s = .next t

/-- R157, R52, R9: no step writes the parameters; the history only grows, at its end; time does not run
backwards, but that a reset sets it to 0. That the history goes on across a reset, with its times as they were
recorded, is the model's choice (log 18, 19). -/
def Obligations.StepKeepsParametersAndHistory : Prop :=
  ∀ s t : State, step s = .next t →
    t.cfg = s.cfg ∧ (∃ l, t.env.history = s.env.history ++ l) ∧ (s.rst = false → s.env.now ≤ t.env.now)
      ∧ (s.rst = true → t.env.now = 0)

/-- R80, R36: the frames of a command are those of the eight registers, in front of either environment, whatever
it answers. -/
def Obligations.CommandsEmitOnlyTheirFrames : Prop :=
  ∀ (i : Instr) (s t : State), isCommand i = true → s.seq.busy = false → s.port.tReq = false →
    s.seq.tmr = 0 → exec i s = .next t →
    ∃ l, t.env.history = s.env.history ++ l ∧ ∀ ev ∈ l, allowedEvent s.cfg ev.what = true

/-- R17, R138, R169: a command that does not stop has responded, or stands at a handshake the transport never
answers. -/
def Obligations.CommandsRespondOrHang : Prop :=
  ∀ (i : Instr) (s t : State), isCommand i = true → s.seq.busy = false → s.port.tReq = false →
    exec i s = .next t →
    (t.seq.busy = false ∧ t.seq.rspValid = true ∧ t.seq.rspStatus = .ok ∧ t.port.tReq = false)
      ∨ (t.seq.busy = true ∧ t.port.tReq = true ∧ (t.env.answerAt 0).duration = none)

/-- R52, R133: what the block does depends on the bytes the oracle returns and not on how long it takes: two
runs of one command that differ in times only end with the same registers and the same events. -/
def Obligations.TransportTimingIsInvisible : Prop :=
  ∀ (i : Instr) (s s' : State), isCommand i = true → ReadyOracle s → ReadyOracle s' →
    s.env.returns 13 → s'.env.returns 13 → s.cfg = s'.cfg → s.seq = s'.seq →
    (∀ k < 13, s.env.byte0 k = s'.env.byte0 k ∧ s.env.byte1 k = s'.env.byte1 k) →
    ∃ t t' l l', exec i s = .next t ∧ exec i s' = .next t' ∧ t.seq = t'.seq
      ∧ t.env.history = s.env.history ++ l ∧ t'.env.history = s'.env.history ++ l'
      ∧ l.map (fun e => e.what) = l'.map (fun e => e.what)

/-- R28, R101, R96: the edges of the handshake and the ticks of TMR carry out the micro-step: from any state of
the invariant in the edge grain, steps reach exactly the state the micro-step gives. -/
def Obligations.EdgesRefineMicroSteps : Prop :=
  ∀ s t : State, Inv s → s.grain = .edge → s.rst = false → s.codecIn = none → s.port.tReq = false →
    s.seq.busy = true → microStep s = .next t → ∃ n, stepN n s = .next t

/-- R96, R105: acceptance and the micro-steps carry out the command: in the micro grain, steps reach exactly the
state the command's meaning gives, in at most seventeen. -/
def Obligations.MicroStepsRefineCommands : Prop :=
  ∀ (w : CmdWord) (rest : List HostAction) (s t : State),
    s.grain = .micro → s.rst = false → s.codecIn = none → s.port.tReq = false → s.seq.busy = false →
    s.host = .present w :: rest → exec (decodeCmd w) { s with host := rest } = .next t →
    ∃ n ≤ 17, stepN n s = .next t
end

