-- ==== Sys2Proof/Laws/Codec.lean ====
section
/-! SUPPORT. The small laws of the codec that the operations rest on (spec/40_codec.md). -/

namespace Sys2Proof.Machine

/-- Reading the address out of an address byte twice changes nothing (R92). -/
@[simp] theorem addrRd_addrRd (a : Byte) : addrRd (addrRd a) = addrRd a := by
  simp [addrRd, BitVec.and_assoc]

/-- The write mark does not touch the address (R93). -/
@[simp] theorem addrRd_addrWr (a : Byte) : addrRd (addrWr a) = addrRd a := by
  revert a; decide

/-- Marking an address byte for a write does not depend on what its mark was (R93). -/
@[simp] theorem addrWr_addrRd (a : Byte) : addrWr (addrRd a) = addrWr a := by
  revert a; decide

/-- The address of a seven-bit address parameter is itself (R92: 'neither function ever changes bits 6:0'). -/
theorem addrRd_of_lt {a : Byte} (h : a.toNat < 0x80) : addrRd a = a := by
  revert a; decide

/-- The address byte the frame encoder builds for a read. -/
theorem readByte_extract (a : Byte) : readByte (a.extractLsb' 0 7) = addrRd a := by
  revert a; decide

/-- The address byte the frame encoder builds for a write. -/
theorem writeByte_extract (a : Byte) : writeByte (a.extractLsb' 0 7) = addrWr a := by
  revert a; decide

/-- The two bytes of a threshold join to the threshold (R91). -/
theorem wordJoin_thr (v : Word) : wordJoin (thrHi v) (thrLo v) = v := by
  apply BitVec.eq_of_getLsbD_eq
  intro i hi
  simp only [wordJoin, thrHi, thrLo, BitVec.getLsbD_or, BitVec.getLsbD_shiftLeft, BitVec.getLsbD_setWidth,
    BitVec.getLsbD_extractLsb']
  by_cases h : i < 8
  · simp [h, hi]
  · have h1 : i - 8 < 8 := by omega
    have h2 : 8 + (i - 8) = i := by omega
    simp [h, hi, h1, h2]; omega

/-- The resistance code is half the word (R89). -/
theorem rtdCode_toNat (w : Word) : (rtdCode w).toNat = w.toNat / 2 := by
  simp [rtdCode, BitVec.toNat_ushiftRight, Nat.shiftRight_eq_div_pow]

/-- `CFG_SET` sets the mask's bits (R85). -/
theorem cfgSet_and_mask (t m : Byte) : cfgSet t m &&& m = m := by
  ext i hi; simp [cfgSet]; tauto

/-- `CFG_CLR` clears the mask's bits (R85). -/
theorem cfgClr_and_mask (t m : Byte) : cfgClr t m &&& m = 0#8 := by
  ext i hi; simp [cfgClr]

/-- `CFG_SET` leaves every bit outside the mask (R85). -/
theorem cfgSet_outside (t m : Byte) : cfgSet t m &&& ~~~m = t &&& ~~~m := by
  ext i hi; simp [cfgSet]; cases m[i] <;> simp

/-- `CFG_CLR` leaves every bit outside the mask (R85). -/
theorem cfgClr_outside (t m : Byte) : cfgClr t m &&& ~~~m = t &&& ~~~m := by
  ext i hi; simp [cfgClr]

end Sys2Proof.Machine
end

