-- ==== Sys2Proof/Laws/Decode.lean ====
section
/-! SUPPORT. The fields of encoded words read back, and the micro-program each command word selects. -/

namespace Sys2Proof

@[simp] theorem cmdOp_cmdWord (op : Byte) (a b : Word) : cmdOp (cmdWord op a b) = op := by
  ext i hi
  simp only [cmdOp, cmdWord, BitVec.getElem_extractLsb', BitVec.getLsbD_append]
  split <;> [omega; split] <;> [omega; skip]
  rw [← BitVec.getLsbD_eq_getElem hi]
  congr 1
  omega

@[simp] theorem cmdA_cmdWord (op : Byte) (a b : Word) : cmdA (cmdWord op a b) = a := by
  ext i hi
  simp only [cmdA, cmdWord, BitVec.getElem_extractLsb', BitVec.getLsbD_append]
  split <;> [omega; split] <;> [skip; omega]
  rw [← BitVec.getLsbD_eq_getElem hi]
  congr 1
  omega

@[simp] theorem cmdB_cmdWord (op : Byte) (a b : Word) : cmdB (cmdWord op a b) = b := by
  ext i hi
  simp only [cmdB, cmdWord, BitVec.getElem_extractLsb', BitVec.getLsbD_append]
  split
  · rw [← BitVec.getLsbD_eq_getElem hi]
    congr 1
    omega
  · omega

/-- A command word is the word of its three fields. -/
theorem cmdWord_fields (w : CmdWord) : cmdWord (cmdOp w) (cmdA w) (cmdB w) = w := by
  apply BitVec.eq_of_getLsbD_eq
  intro i hi
  simp only [cmdWord, cmdOp, cmdA, cmdB, BitVec.getLsbD_append, BitVec.getLsbD_extractLsb']
  split
  · simp; omega
  · split
    · rw [decide_eq_true (by omega), Bool.true_and]
      congr 1
      omega
    · rw [decide_eq_true (by omega), Bool.true_and]
      congr 1
      omega

@[simp] theorem wireField_code (x : BitVec 14) (m : BitVec 2) : (wireField x m).extractLsb' 0 2 = m := by
  ext i hi
  simp only [wireField, BitVec.getElem_extractLsb', BitVec.getLsbD_append]
  split
  · rw [← BitVec.getLsbD_eq_getElem hi]
    congr 1
    omega
  · omega

@[simp] theorem wireField_rest (x : BitVec 14) (m : BitVec 2) : (wireField x m).extractLsb' 2 14 = x := by
  ext i hi
  simp only [wireField, BitVec.getElem_extractLsb', BitVec.getLsbD_append]
  split
  · omega
  · rw [← BitVec.getLsbD_eq_getElem hi]
    congr 1
    omega

@[simp] theorem boolField_bit (x : BitVec 15) (on : Bool) : (boolField x on).getLsbD 0 = on := by
  rw [boolField, BitVec.getLsbD_append]
  cases on <;> rfl

@[simp] theorem boolField_rest (x : BitVec 15) (on : Bool) : (boolField x on).extractLsb' 1 15 = x := by
  ext i hi
  simp only [boolField, BitVec.getElem_extractLsb', BitVec.getLsbD_append]
  split
  · omega
  · rw [← BitVec.getLsbD_eq_getElem hi]
    congr 1
    omega

@[simp] theorem wireOfCode_wireCode (mode : WireMode) : wireOfCode (wireCode mode) = some mode := by
  cases mode <;> rfl

/-- Every class of opcodes is the class of its opcodes. -/
theorem classifyOp_opcodeOf (c : OpClass) : classifyOp (opcodeOf c) = c := by
  cases c with
  | op0A0B low => revert low; decide
  | op0C0F low => revert low; decide
  | op101F low => revert low; decide
  | op203F low => revert low; decide
  | op407F low => revert low; decide
  | op80FF low => revert low; decide
  | _ => rfl

/-- Every opcode is an opcode of its class. -/
theorem opcodeOf_classifyOp (op : Byte) : opcodeOf (classifyOp op) = op := by
  revert op
  decide

theorem decodeFields_begin (mode : WireMode) (x : BitVec 14) (b : Word) :
    decodeFields 0x00#8 (wireField x (wireCode mode)) b = .beginCmd mode x b := by
  have h : classifyOp 0x00#8 = .beginOp := rfl
  simp [decodeFields, h]

theorem decodeFields_setWires (mode : WireMode) (x : BitVec 14) (b : Word) :
    decodeFields 0x06#8 (wireField x (wireCode mode)) b = .setWires mode x b := by
  have h : classifyOp 0x06#8 = .setWires := rfl
  simp [decodeFields, h]

theorem decodeFields_enableBias (on : Bool) (x : BitVec 15) (b : Word) :
    decodeFields 0x04#8 (boolField x on) b = .enableBias on x b := by
  have h : classifyOp 0x04#8 = .enableBias := rfl
  simp only [decodeFields, h, boolField_bit, boolField_rest]

theorem decodeFields_autoConvert (on : Bool) (x : BitVec 15) (b : Word) :
    decodeFields 0x05#8 (boolField x on) b = .autoConvert on x b := by
  have h : classifyOp 0x05#8 = .autoConvert := rfl
  simp only [decodeFields, h, boolField_bit, boolField_rest]

@[simp] theorem decodeFields_readRtd (a b : Word) : decodeFields 0x01#8 a b = .readRtd a b := rfl
@[simp] theorem decodeFields_readFault (a b : Word) : decodeFields 0x02#8 a b = .readFault a b := rfl
@[simp] theorem decodeFields_clearFault (a b : Word) : decodeFields 0x03#8 a b = .clearFault a b := rfl
@[simp] theorem decodeFields_setThresholds (a b : Word) : decodeFields 0x07#8 a b = .setThresholds a b := rfl
@[simp] theorem decodeFields_getLower (a b : Word) : decodeFields 0x08#8 a b = .getLowerThreshold a b := rfl
@[simp] theorem decodeFields_getUpper (a b : Word) : decodeFields 0x09#8 a b = .getUpperThreshold a b := rfl

end Sys2Proof
end

