-- ==== Sys2Proof/Laws/Memory.lean ====
section
/-! SUPPORT. The chip's register space: read after write, and the canonical form that every write keeps. -/

namespace Sys2Proof.Machine

@[simp] theorem read_nil (a : Nat) : Memory.read [] a = none := rfl

/-- A read after a write to the same address gives the byte written. -/
@[simp] theorem read_write_same (m : Memory) (a : Nat) (v : Byte) :
    Memory.read (Memory.write m a v) a = some v := by
  induction m with
  | nil => simp [Memory.write, Memory.read]
  | cons c rest ih =>
    obtain ⟨k, u⟩ := c
    simp only [Memory.write]
    split
    · simp [Memory.read]
    · split
      · simp [Memory.read]
      · simp [Memory.read, *]

/-- A write leaves every other address alone. -/
theorem read_write_other (m : Memory) (a k : Nat) (v : Byte) (h : k ≠ a) :
    Memory.read (Memory.write m a v) k = Memory.read m k := by
  induction m with
  | nil => simp [Memory.write, Memory.read, h]
  | cons c rest ih =>
    obtain ⟨j, u⟩ := c
    simp only [Memory.write]
    split
    · simp [Memory.read, h]
    · split
      · subst_vars; simp [Memory.read, h]
      · simp [Memory.read, ih]

/-- Both reads at once. -/
theorem read_write (m : Memory) (a k : Nat) (v : Byte) :
    Memory.read (Memory.write m a v) k = if k = a then some v else Memory.read m k := by
  split
  · subst_vars; simp
  · exact read_write_other m a k v ‹_›

theorem above_write {m : Memory} {lo a : Nat} (v : Byte) (h : Memory.above lo m = true) (ha : lo < a) :
    Memory.above lo (Memory.write m a v) = true := by
  induction m with
  | nil => simp [Memory.write, Memory.above, ha]
  | cons c rest ih =>
    obtain ⟨k, u⟩ := c
    have h1 : lo < k ∧ Memory.above lo rest = true := by simpa [Memory.above] using h
    simp only [Memory.write]
    split
    · simpa [Memory.above, ha] using h1
    · split
      · simpa [Memory.above, ha] using h1.2
      · have := ih h1.2
        simpa [Memory.above, h1.1] using this

theorem above_trans {m : Memory} {lo hi : Nat} (h : Memory.above hi m = true) (hlt : lo < hi) :
    Memory.above lo m = true := by
  simp only [Memory.above, List.all_eq_true, decide_eq_true_eq] at *
  exact fun c hc => Nat.lt_trans hlt (h c hc)

/-- Every write of a byte at a byte's address keeps the canonical form. -/
theorem wf_write {m : Memory} {a : Nat} (v : Byte) (h : Memory.wf m = true) (ha : a < 256) :
    Memory.wf (Memory.write m a v) = true := by
  induction m with
  | nil => simp [Memory.write, Memory.wf, Memory.above, ha]
  | cons c rest ih =>
    obtain ⟨k, u⟩ := c
    have h1 : k < 256 ∧ Memory.above k rest = true ∧ Memory.wf rest = true := by
      simpa [Memory.wf, and_assoc] using h
    simp only [Memory.write]
    split
    · have hk : Memory.above a ((k, u) :: rest) = true := by
        have := above_trans h1.2.1 ‹a < k›
        simpa [Memory.above, ‹a < k›] using this
      simp [Memory.wf, hk, ha, h1]
    · split
      · subst_vars; simp [Memory.wf, h1]
      · have hlt : k < a := by omega
        simp [Memory.wf, h1, above_write v h1.2.1 hlt, ih h1.2.2]

/-- `creg` after a write. -/
theorem creg_setCreg (e : Env) (a k v : Byte) :
    (e.setCreg a v).creg k = if k = a then v else e.creg k := by
  have hk : k.toNat = a.toNat ↔ k = a := BitVec.toNat_inj
  by_cases h : k = a
  · subst h; simp [Env.creg, Env.setCreg]
  · have : k.toNat ≠ a.toNat := fun hc => h (hk.mp hc)
    simp [Env.creg, Env.setCreg, h, read_write_other _ _ _ _ this]

theorem wf_setCreg {e : Env} (a v : Byte) (h : Memory.wf e.mem = true) :
    Memory.wf (e.setCreg a v).mem = true := wf_write v h a.isLt

section SetCreg
variable (e : Env) (a v : Byte)

@[simp] theorem setCreg_kind : (e.setCreg a v).kind = e.kind := rfl
@[simp] theorem setCreg_now : (e.setCreg a v).now = e.now := rfl
@[simp] theorem setCreg_transport : (e.setCreg a v).transport = e.transport := rfl
@[simp] theorem setCreg_epoch : (e.setCreg a v).epoch = e.epoch := rfl
@[simp] theorem setCreg_pending : (e.setCreg a v).pending = e.pending := rfl
@[simp] theorem setCreg_ghost : (e.setCreg a v).ghost = e.ghost := rfl
@[simp] theorem setCreg_history : (e.setCreg a v).history = e.history := rfl
@[simp] theorem setCreg_answers : (e.setCreg a v).answers = e.answers := rfl
@[simp] theorem setCreg_lags : (e.setCreg a v).lags = e.lags := rfl
@[simp] theorem setCreg_conversions : (e.setCreg a v).conversions = e.conversions := rfl
@[simp] theorem setCreg_injections : (e.setCreg a v).injections = e.injections := rfl
@[simp] theorem setCreg_draws : (e.setCreg a v).draws = e.draws := rfl
@[simp] theorem setCreg_lagDraws : (e.setCreg a v).lagDraws = e.lagDraws := rfl

end SetCreg

end Sys2Proof.Machine
end

