-- ==== Sys2Proof/Laws/State.lean ====
section
/-! SUPPORT. One lemma per field per update of the state and of the sequencer's registers. -/

namespace Sys2Proof.Machine

section StateUpdates
variable (s : State) (q : Seq) (p : TPort) (e : Env) (h : List HostAction) (o : CodecOut)

@[simp] theorem setSeq_seq : (s.setSeq q).seq = q := rfl
@[simp] theorem setSeq_cfg : (s.setSeq q).cfg = s.cfg := rfl
@[simp] theorem setSeq_grain : (s.setSeq q).grain = s.grain := rfl
@[simp] theorem setSeq_rst : (s.setSeq q).rst = s.rst := rfl
@[simp] theorem setSeq_port : (s.setSeq q).port = s.port := rfl
@[simp] theorem setSeq_env : (s.setSeq q).env = s.env := rfl
@[simp] theorem setSeq_host : (s.setSeq q).host = s.host := rfl
@[simp] theorem setSeq_codecIn : (s.setSeq q).codecIn = s.codecIn := rfl
@[simp] theorem setSeq_codecOut : (s.setSeq q).codecOut = s.codecOut := rfl

@[simp] theorem setPort_port : (s.setPort p).port = p := rfl
@[simp] theorem setPort_cfg : (s.setPort p).cfg = s.cfg := rfl
@[simp] theorem setPort_grain : (s.setPort p).grain = s.grain := rfl
@[simp] theorem setPort_rst : (s.setPort p).rst = s.rst := rfl
@[simp] theorem setPort_seq : (s.setPort p).seq = s.seq := rfl
@[simp] theorem setPort_env : (s.setPort p).env = s.env := rfl
@[simp] theorem setPort_host : (s.setPort p).host = s.host := rfl
@[simp] theorem setPort_codecIn : (s.setPort p).codecIn = s.codecIn := rfl
@[simp] theorem setPort_codecOut : (s.setPort p).codecOut = s.codecOut := rfl

@[simp] theorem setEnv_env : (s.setEnv e).env = e := rfl
@[simp] theorem setEnv_cfg : (s.setEnv e).cfg = s.cfg := rfl
@[simp] theorem setEnv_grain : (s.setEnv e).grain = s.grain := rfl
@[simp] theorem setEnv_rst : (s.setEnv e).rst = s.rst := rfl
@[simp] theorem setEnv_seq : (s.setEnv e).seq = s.seq := rfl
@[simp] theorem setEnv_port : (s.setEnv e).port = s.port := rfl
@[simp] theorem setEnv_host : (s.setEnv e).host = s.host := rfl
@[simp] theorem setEnv_codecIn : (s.setEnv e).codecIn = s.codecIn := rfl
@[simp] theorem setEnv_codecOut : (s.setEnv e).codecOut = s.codecOut := rfl

@[simp] theorem setHost_host : (s.setHost h).host = h := rfl
@[simp] theorem setHost_cfg : (s.setHost h).cfg = s.cfg := rfl
@[simp] theorem setHost_grain : (s.setHost h).grain = s.grain := rfl
@[simp] theorem setHost_rst : (s.setHost h).rst = s.rst := rfl
@[simp] theorem setHost_seq : (s.setHost h).seq = s.seq := rfl
@[simp] theorem setHost_port : (s.setHost h).port = s.port := rfl
@[simp] theorem setHost_env : (s.setHost h).env = s.env := rfl
@[simp] theorem setHost_codecIn : (s.setHost h).codecIn = s.codecIn := rfl
@[simp] theorem setHost_codecOut : (s.setHost h).codecOut = s.codecOut := rfl

@[simp] theorem setCodec_codecOut : (s.setCodec o).codecOut = o := rfl
@[simp] theorem setCodec_codecIn : (s.setCodec o).codecIn = none := rfl
@[simp] theorem setCodec_cfg : (s.setCodec o).cfg = s.cfg := rfl
@[simp] theorem setCodec_grain : (s.setCodec o).grain = s.grain := rfl
@[simp] theorem setCodec_rst : (s.setCodec o).rst = s.rst := rfl
@[simp] theorem setCodec_seq : (s.setCodec o).seq = s.seq := rfl
@[simp] theorem setCodec_port : (s.setCodec o).port = s.port := rfl
@[simp] theorem setCodec_env : (s.setCodec o).env = s.env := rfl
@[simp] theorem setCodec_host : (s.setCodec o).host = s.host := rfl

end StateUpdates

section SeqUpdates
variable (q : Seq) (bno : Bool) (u : BitVec 4) (op : Byte) (a b d : Word) (st : RspStatus) (v : Byte) (n : Nat)

@[simp] theorem finish_upc : (q.finish bno).upc = q.upc + 1#4 := rfl
@[simp] theorem finish_phase : (q.finish bno).phase = q.phaseNext bno := rfl
@[simp] theorem finish_busy : (q.finish bno).busy = q.busy := rfl
@[simp] theorem finish_op : (q.finish bno).op = q.op := rfl
@[simp] theorem finish_a : (q.finish bno).a = q.a := rfl
@[simp] theorem finish_b : (q.finish bno).b = q.b := rfl
@[simp] theorem finish_t : (q.finish bno).t = q.t := rfl
@[simp] theorem finish_tLive : (q.finish bno).tLive = q.tLive := rfl
@[simp] theorem finish_r : (q.finish bno).r = q.r := rfl
@[simp] theorem finish_rLive : (q.finish bno).rLive = q.rLive := rfl
@[simp] theorem finish_res : (q.finish bno).res = q.res := rfl
@[simp] theorem finish_resLive : (q.finish bno).resLive = q.resLive := rfl
@[simp] theorem finish_tmr : (q.finish bno).tmr = q.tmr := rfl
@[simp] theorem finish_rspValid : (q.finish bno).rspValid = q.rspValid := rfl
@[simp] theorem finish_rspData : (q.finish bno).rspData = q.rspData := rfl
@[simp] theorem finish_rspStatus : (q.finish bno).rspStatus = q.rspStatus := rfl

@[simp] theorem accept_busy : (q.accept op a b).busy = true := rfl
@[simp] theorem accept_op : (q.accept op a b).op = op := rfl
@[simp] theorem accept_a : (q.accept op a b).a = a := rfl
@[simp] theorem accept_b : (q.accept op a b).b = b := rfl
@[simp] theorem accept_upc : (q.accept op a b).upc = 0#4 := rfl
@[simp] theorem accept_rspValid : (q.accept op a b).rspValid = false := rfl
@[simp] theorem accept_rspData : (q.accept op a b).rspData = q.rspData := rfl
@[simp] theorem accept_rspStatus : (q.accept op a b).rspStatus = q.rspStatus := rfl
@[simp] theorem accept_phase : (q.accept op a b).phase = q.phase := rfl
@[simp] theorem accept_tmr : (q.accept op a b).tmr = q.tmr := rfl
@[simp] theorem accept_t : (q.accept op a b).t = q.t := rfl
@[simp] theorem accept_r : (q.accept op a b).r = q.r := rfl
@[simp] theorem accept_res : (q.accept op a b).res = q.res := rfl
@[simp] theorem accept_tLive : (q.accept op a b).tLive = false := rfl
@[simp] theorem accept_rLive : (q.accept op a b).rLive = false := rfl
@[simp] theorem accept_resLive : (q.accept op a b).resLive = false := rfl

@[simp] theorem respond_busy : (q.respond d st).busy = false := rfl
@[simp] theorem respond_upc : (q.respond d st).upc = 0#4 := rfl
@[simp] theorem respond_phase : (q.respond d st).phase = .idle := rfl
@[simp] theorem respond_rspValid : (q.respond d st).rspValid = true := rfl
@[simp] theorem respond_rspData : (q.respond d st).rspData = d := rfl
@[simp] theorem respond_rspStatus : (q.respond d st).rspStatus = st := rfl
@[simp] theorem respond_tmr : (q.respond d st).tmr = q.tmr := by cases st <;> rfl
@[simp] theorem respond_res : (q.respond d .ok).res = d := rfl
@[simp] theorem respond_resLive : (q.respond d .ok).resLive = true := rfl
@[simp] theorem respond_res_illegal : (q.respond d .illegal).res = q.res := rfl
@[simp] theorem respond_resLive_illegal : (q.respond d .illegal).resLive = q.resLive := rfl

@[simp] theorem loadT_t : (q.loadT v).t = v := rfl
@[simp] theorem loadT_tLive : (q.loadT v).tLive = true := rfl
@[simp] theorem loadR_r : (q.loadR d).r = d := rfl
@[simp] theorem loadR_rLive : (q.loadR d).rLive = true := rfl
@[simp] theorem loadRes_res : (q.loadRes d).res = d := rfl
@[simp] theorem loadRes_resLive : (q.loadRes d).resLive = true := rfl
@[simp] theorem setTmr_tmr : (q.setTmr n).tmr = n := rfl

end SeqUpdates

end Sys2Proof.Machine
end

