-- ==== Sys2Proof/Laws/Ops.lean ====
section
/-! SUPPORT. What each shared operation can do, said once: the environment, one transport operation, the
micro-steps without transport activity. -/

namespace Sys2Proof.Machine

/-! ## Draws -/

/-- Using up one answer moves every later answer one place forward. -/
theorem answerAt_shift {e e' : Env} (ha : e'.answers = e.answers.tail) (hd : e'.draws = e.draws + 1) (k : Nat) :
    e'.answerAt k = e.answerAt (k + 1) := by
  have h1 : e.answers.tail[k]? = e.answers[k + 1]? := by simp
  have h2 : e.draws + 1 + k = e.draws + (k + 1) := by omega
  simp only [Env.answerAt, ha, hd, h1, h2]

/-- Nothing of the transport's answers changes while its script and counter stand. -/
theorem answerAt_same {e e' : Env} (ha : e'.answers = e.answers) (hd : e'.draws = e.draws) (k : Nat) :
    e'.answerAt k = e.answerAt k := by
  simp only [Env.answerAt, ha, hd]

/-- Using up one lag moves every later lag one place forward. -/
theorem lagAt_shift {e e' : Env} (ha : e'.lags = e.lags.tail) (hd : e'.lagDraws = e.lagDraws + 1) (k : Nat) :
    e'.lagAt k = e.lagAt (k + 1) := by
  have h1 : e.lags.tail[k]? = e.lags[k + 1]? := by simp
  have h2 : e.lagDraws + 1 + k = e.lagDraws + (k + 1) := by omega
  simp only [Env.lagAt, ha, hd, h1, h2]

/-- The lags stand while their script and counter stand. -/
theorem lagAt_same {e e' : Env} (ha : e'.lags = e.lags) (hd : e'.lagDraws = e.lagDraws) (k : Nat) :
    e'.lagAt k = e.lagAt k := by
  simp only [Env.lagAt, ha, hd]

/-! ## The environment -/

/-- What no operation of the environment touches: everything but the transport, the chip and its
bookkeeping. -/
structure Env.SameFrame (e e' : Env) : Prop where
  kind : e'.kind = e.kind
  now : e'.now = e.now
  epoch : e'.epoch = e.epoch
  history : e'.history = e.history
  answers : e'.answers = e.answers
  lags : e'.lags = e.lags
  draws : e'.draws = e.draws
  lagDraws : e'.lagDraws = e.lagDraws
  wf : Memory.wf e.mem = true → Memory.wf e'.mem = true

theorem Env.SameFrame.refl (e : Env) : Env.SameFrame e e :=
  ⟨rfl, rfl, rfl, rfl, rfl, rfl, rfl, rfl, id⟩

theorem Env.SameFrame.trans {e1 e2 e3 : Env} (h : Env.SameFrame e1 e2) (g : Env.SameFrame e2 e3) :
    Env.SameFrame e1 e3 :=
  ⟨g.kind.trans h.kind, g.now.trans h.now, g.epoch.trans h.epoch, g.history.trans h.history,
    g.answers.trans h.answers, g.lags.trans h.lags, g.draws.trans h.draws, g.lagDraws.trans h.lagDraws,
    g.wf ∘ h.wf⟩

theorem setCreg_frame (e : Env) (a v : Byte) : Env.SameFrame e (e.setCreg a v) :=
  ⟨rfl, rfl, rfl, rfl, rfl, rfl, rfl, rfl, wf_setCreg a v⟩

theorem injectNext_frame (cfg : Config) (e : Env) : Env.SameFrame e (e.injectNext cfg) := by
  unfold Env.injectNext
  split
  · exact ⟨rfl, rfl, rfl, rfl, rfl, rfl, rfl, rfl, wf_setCreg _ _⟩
  · exact .refl e

theorem completeConversion_frame (cfg : Config) (w : Word) (e : Env) :
    Env.SameFrame e (e.completeConversion cfg w) :=
  ⟨rfl, rfl, rfl, rfl, rfl, rfl, rfl, rfl, fun h => wf_setCreg _ _ (wf_setCreg _ _ (wf_setCreg _ _ h))⟩

theorem settle_frame (cfg : Config) (time : Nat) (e : Env) : Env.SameFrame e (e.settle cfg time) := by
  unfold Env.settle
  split
  · split
    · exact completeConversion_frame cfg _ e
    · exact .refl e
  · exact .refl e

theorem clearFaultStatus_frame (cfg : Config) (v : Byte) (e : Env) :
    Env.SameFrame e (e.clearFaultStatus cfg v) := by
  unfold Env.clearFaultStatus
  split
  · exact setCreg_frame e _ _
  · exact .refl e

/-- A configuration write of ENV-REF, if it is not refused: the byte stored, the fault status it clears, the
conversion it starts, and nothing else but the bookkeeping (R56). -/
theorem refWriteConfig_next {cfg : Config} {v : Byte} {ended : Nat} {e : Env} {sv : Served}
    (h : refWriteConfig cfg v ended e = .next sv) :
    (hasBit v cfg.m1Shot = true ∧ e.pending = none
      ∧ sv.env = ((((e.noteConfigWrite cfg v ended).clearFaultStatus cfg v).setCreg cfg.aConfig
          (storedConfig cfg v)).startConversion cfg ended))
    ∨ (hasBit v cfg.m1Shot = false
      ∧ sv.env = ((e.noteConfigWrite cfg v ended).clearFaultStatus cfg v).setCreg cfg.aConfig
          (storedConfig cfg v)) := by
  unfold refWriteConfig at h
  simp only at h
  split at h
  · split at h
    · simp at h
    · cases h
      refine .inl ⟨‹_›, ?_, rfl⟩
      cases hp : e.pending with
      | none => rfl
      | some p => simp_all
  · cases h
    exact .inr ⟨by simpa using ‹¬hasBit v cfg.m1Shot = true›, rfl⟩

theorem refWriteConfig_frame {cfg : Config} {v : Byte} {ended : Nat} {e : Env} {sv : Served}
    (h : refWriteConfig cfg v ended e = .next sv) : Env.SameFrame e sv.env := by
  have h0 : Env.SameFrame e (e.noteConfigWrite cfg v ended) := ⟨rfl, rfl, rfl, rfl, rfl, rfl, rfl, rfl, id⟩
  have h1 := (h0.trans (clearFaultStatus_frame cfg v _)).trans
    (setCreg_frame _ cfg.aConfig (storedConfig cfg v))
  obtain ⟨-, -, he⟩ | ⟨-, he⟩ := refWriteConfig_next h
  · rw [he]; exact h1.trans ⟨rfl, rfl, rfl, rfl, rfl, rfl, rfl, rfl, id⟩
  · rw [he]; exact h1

theorem refFrame_frame {cfg : Config} {f : Frame} {d : Nat} {e : Env} {sv : Served}
    (h : refFrame cfg f d e = .next sv) : Env.SameFrame e sv.env := by
  cases f with
  | init => cases h; exact ⟨rfl, rfl, rfl, rfl, rfl, rfl, rfl, rfl, id⟩
  | read1 a =>
    simp only [refFrame, refRead1] at h
    split at h
    · cases h; exact .refl e
    · simp at h
  | read2 a =>
    simp only [refFrame, refRead2] at h
    split at h
    · cases h
      show Env.SameFrame e (if _ then _ else _)
      split
      · exact ⟨rfl, rfl, rfl, rfl, rfl, rfl, rfl, rfl, id⟩
      · exact .refl e
    · simp at h
  | write a v =>
    simp only [refFrame, refWrite] at h
    split at h
    · simp at h
    · split at h
      · exact refWriteConfig_frame h
      · split at h
        · cases h; exact setCreg_frame e _ _
        · simp at h

/-- ENV-REF serves a frame only on an initialised transport, and what it hands back is the frame's effect on
the injected and settled chip (R54, R59, R60). -/
theorem refServe_next {cfg : Config} {f : Frame} {d : Nat} {e : Env} {sv : Served}
    (h : refServe cfg f d e = .next sv) :
    (f = .init ∨ e.transport = .ready)
      ∧ refFrame cfg f d ((e.injectNext cfg).settle cfg e.now) = .next sv := by
  unfold refServe at h
  cases f <;> cases ht : e.transport <;> simp_all

theorem refServe_frame {cfg : Config} {f : Frame} {d : Nat} {e : Env} {sv : Served}
    (h : refServe cfg f d e = .next sv) : Env.SameFrame e sv.env :=
  ((injectNext_frame cfg e).trans (settle_frame cfg _ _)).trans (refFrame_frame (refServe_next h).2)

/-- What the oracle hands back (R52). -/
theorem oracleServe_eq (f : Frame) (ans : Answer) (e : Env) :
    oracleServe f ans e
      = .next ⟨if f = .init then { e with transport := .ready } else e, ans.r0, ans.r1⟩ := by
  cases f <;> rfl

theorem oracleServe_frame {f : Frame} {ans : Answer} {e : Env} {sv : Served}
    (h : oracleServe f ans e = .next sv) : Env.SameFrame e sv.env := by
  rw [oracleServe_eq] at h
  cases h
  show Env.SameFrame e (if _ then _ else _)
  split
  · exact ⟨rfl, rfl, rfl, rfl, rfl, rfl, rfl, rfl, id⟩
  · exact .refl e

/-- What one served operation leaves: `d` ticks have passed, its event is recorded, its answer is used up, the
canonical form is kept. -/
theorem serve_next {cfg : Config} {f : Frame} {ans : Answer} {d : Nat} {e : Env} {sv : Served}
    (h : serve cfg f ans d e = .next sv) :
    sv.env.kind = e.kind ∧ sv.env.now = e.now + d
      ∧ sv.env.history = e.history ++ [⟨frameEvent f sv.r0 sv.r1, e.now, e.now + d⟩]
      ∧ sv.env.answers = e.answers.tail ∧ sv.env.draws = e.draws + 1
      ∧ sv.env.lags = e.lags ∧ sv.env.lagDraws = e.lagDraws
      ∧ (Memory.wf e.mem = true → Memory.wf sv.env.mem = true) := by
  have key : ∀ sv0 : Served, Env.SameFrame e sv0.env →
      (sv0.env.account f sv0.r0 sv0.r1 d).kind = e.kind
      ∧ (sv0.env.account f sv0.r0 sv0.r1 d).now = e.now + d
      ∧ (sv0.env.account f sv0.r0 sv0.r1 d).history
        = e.history ++ [⟨frameEvent f sv0.r0 sv0.r1, e.now, e.now + d⟩]
      ∧ (sv0.env.account f sv0.r0 sv0.r1 d).answers = e.answers.tail
      ∧ (sv0.env.account f sv0.r0 sv0.r1 d).draws = e.draws + 1
      ∧ (sv0.env.account f sv0.r0 sv0.r1 d).lags = e.lags
      ∧ (sv0.env.account f sv0.r0 sv0.r1 d).lagDraws = e.lagDraws
      ∧ (Memory.wf e.mem = true → Memory.wf (sv0.env.account f sv0.r0 sv0.r1 d).mem = true) := by
    intro sv0 hf
    refine ⟨hf.kind, ?_, ?_, ?_, ?_, hf.lags, hf.lagDraws, hf.wf⟩
    · simp [Env.account, Env.record, hf.now]
    · simp [Env.account, Env.record, hf.now, hf.history]
    · simp [Env.account, Env.record, hf.answers]
    · simp [Env.account, Env.record, hf.draws]
  unfold serve at h
  cases hk : e.kind with
  | oracle =>
    simp only [hk] at h
    cases ho : oracleServe f ans e with
    | next sv0 => rw [ho] at h; cases h; simpa [hk] using key sv0 (oracleServe_frame ho)
    | fault x => simp [ho] at h
    | refused x => simp [ho] at h
  | envRef =>
    simp only [hk] at h
    cases ho : refServe cfg f d e with
    | next sv0 => rw [ho] at h; cases h; simpa [hk] using key sv0 (refServe_frame ho)
    | fault x => simp [ho] at h
    | refused x => simp [ho] at h

/-- In front of the oracle an operation that returns always has a next state, and the chip's register space
and bookkeeping are untouched (R52). -/
theorem serve_oracle {cfg : Config} {f : Frame} {ans : Answer} {d : Nat} {e : Env} (hk : e.kind = .oracle) :
    serve cfg f ans d e
      = .next ⟨Env.account f ans.r0 ans.r1 d (if f = .init then { e with transport := .ready } else e),
          ans.r0, ans.r1⟩ := by
  unfold serve
  simp only [hk, oracleServe_eq]

/-! ## The transport port -/

section OpenHandshake
variable (f : Frame) (s : State)

@[simp] theorem openHandshake_cfg : (openHandshake f s).cfg = s.cfg := rfl
@[simp] theorem openHandshake_grain : (openHandshake f s).grain = s.grain := rfl
@[simp] theorem openHandshake_rst : (openHandshake f s).rst = s.rst := rfl
@[simp] theorem openHandshake_seq : (openHandshake f s).seq = s.seq := rfl
@[simp] theorem openHandshake_env : (openHandshake f s).env = s.env := rfl
@[simp] theorem openHandshake_host : (openHandshake f s).host = s.host := rfl
@[simp] theorem openHandshake_codecIn : (openHandshake f s).codecIn = s.codecIn := rfl
@[simp] theorem openHandshake_codecOut : (openHandshake f s).codecOut = s.codecOut := rfl
@[simp] theorem openHandshake_tReq : (openHandshake f s).port.tReq = true := by cases f <;> rfl

end OpenHandshake

section CloseHandshake
variable (f : Frame) (sv : Served) (s : State)

@[simp] theorem closeHandshake_cfg : (closeHandshake f sv s).cfg = s.cfg := rfl
@[simp] theorem closeHandshake_grain : (closeHandshake f sv s).grain = s.grain := rfl
@[simp] theorem closeHandshake_rst : (closeHandshake f sv s).rst = s.rst := rfl
@[simp] theorem closeHandshake_env : (closeHandshake f sv s).env = sv.env := rfl
@[simp] theorem closeHandshake_host : (closeHandshake f sv s).host = s.host := rfl
@[simp] theorem closeHandshake_codecIn : (closeHandshake f sv s).codecIn = s.codecIn := rfl
@[simp] theorem closeHandshake_codecOut : (closeHandshake f sv s).codecOut = s.codecOut := rfl
@[simp] theorem closeHandshake_tReq : (closeHandshake f sv s).port.tReq = false := rfl
@[simp] theorem closeHandshake_seq :
    (closeHandshake f sv s).seq = (takeBytes f sv.r0 sv.r1 s.seq).finish s.cfg.biasNormallyOff := rfl

end CloseHandshake

section Tick
variable (s : State)

@[simp] theorem tick_cfg : (tick s).cfg = s.cfg := rfl
@[simp] theorem tick_grain : (tick s).grain = s.grain := rfl
@[simp] theorem tick_rst : (tick s).rst = s.rst := rfl
@[simp] theorem tick_seq : (tick s).seq = s.seq := rfl
@[simp] theorem tick_port : (tick s).port = s.port := rfl
@[simp] theorem tick_host : (tick s).host = s.host := rfl
@[simp] theorem tick_codecIn : (tick s).codecIn = s.codecIn := rfl
@[simp] theorem tick_codecOut : (tick s).codecOut = s.codecOut := rfl
@[simp] theorem tick_now : (tick s).env.now = s.env.now + 1 := rfl
@[simp] theorem tick_mem : (tick s).env.mem = s.env.mem := rfl

end Tick

/-- A transport micro-operation either waits for an answer that never comes, or the environment has served it
(R96, R138). -/
theorem transact_next {f : Frame} {s t : State} (h : transact f s = .next t) :
    ((s.env.answerAt 0).duration = none ∧ (∃ sv, serve s.cfg f (s.env.answerAt 0) 0 s.env = .next sv)
        ∧ t = tick (openHandshake f s))
      ∨ ∃ d sv, (s.env.answerAt 0).duration = some d
        ∧ serve s.cfg f (s.env.answerAt 0) d s.env = .next sv
        ∧ t = closeHandshake f sv (openHandshake f s) := by
  unfold transact answerRequest at h
  simp only [openHandshake_env, Env.answer] at h
  cases hd : (s.env.answerAt 0).duration with
  | none =>
    simp only [hd, Option.getD_none] at h
    cases hs : serve s.cfg f (s.env.answerAt 0) 0 s.env with
    | next sv => simp only [hs] at h; cases h; exact .inl ⟨rfl, ⟨sv, rfl⟩, rfl⟩
    | fault x => simp [hs] at h
    | refused x => simp [hs] at h
  | some d =>
    simp only [hd, Option.getD_some] at h
    cases hs : serve s.cfg f (s.env.answerAt 0) d s.env with
    | next sv => simp only [hs] at h; cases h; exact .inr ⟨d, sv, rfl, hs, rfl⟩
    | fault x => simp [hs] at h
    | refused x => simp [hs] at h

/-- A request that is served and never answered stands (R138). -/
theorem transact_hang {f : Frame} {s : State} {sv : Served} (h : (s.env.answerAt 0).duration = none)
    (hs : serve s.cfg f (s.env.answerAt 0) 0 s.env = .next sv) :
    transact f s = .next (tick (openHandshake f s)) := by
  simp [transact, answerRequest, Env.answer, h, hs]

/-- A request the environment finds fault with is a fault, answered or not. -/
theorem transact_fault {f : Frame} {s : State} {x : Fault}
    (hs : ∀ d, serve s.cfg f (s.env.answerAt 0) d s.env = .fault x) : transact f s = .fault x := by
  simp [transact, Env.answer, hs]

/-- A request the environment refuses is refused, answered or not. -/
theorem transact_refused {f : Frame} {s : State} {x : Refusal}
    (hs : ∀ d, serve s.cfg f (s.env.answerAt 0) d s.env = .refused x) : transact f s = .refused x := by
  simp [transact, Env.answer, hs]

/-- A frame on an uninitialised ENV-REF is the fault of R60. -/
theorem transact_uninitialised {f : Frame} {s : State} (hk : s.env.kind = .envRef)
    (ht : s.env.transport = .uninitialised) (hf : f ≠ .init) :
    transact f s = .fault .transportNotInitialised := by
  refine transact_fault fun d => ?_
  unfold serve
  simp only [hk]
  cases f <;> simp_all [refServe]

/-- A frame on a transport whose handshake a reset has dropped is refused (R156). -/
theorem transact_dropped {f : Frame} {s : State} (hk : s.env.kind = .envRef)
    (ht : s.env.transport = .dropped) (hf : f ≠ .init) :
    transact f s = .refused .transportDropped := by
  refine transact_refused fun d => ?_
  unfold serve
  simp only [hk]
  cases f <;> simp_all [refServe]

/-- In front of the oracle an operation that is never answered stands (R138, R52). -/
theorem transact_oracle_hang {f : Frame} {s : State} (h : (s.env.answerAt 0).duration = none)
    (hk : s.env.kind = .oracle) : transact f s = .next (tick (openHandshake f s)) :=
  transact_hang h (serve_oracle hk)

/-- A served operation closes its handshake. -/
theorem transact_served {f : Frame} {s : State} {d : Nat} {sv : Served}
    (h : (s.env.answerAt 0).duration = some d) (hs : serve s.cfg f (s.env.answerAt 0) d s.env = .next sv) :
    transact f s = .next (closeHandshake f sv (openHandshake f s)) := by
  simp [transact, answerRequest, Env.answer, h, hs]

/-- In front of the oracle an operation that returns has a next state (R52). -/
theorem transact_oracle {f : Frame} {s : State} {d : Nat} (h : (s.env.answerAt 0).duration = some d)
    (hk : s.env.kind = .oracle) :
    transact f s
      = .next (closeHandshake f
          ⟨Env.account f (s.env.answerAt 0).r0 (s.env.answerAt 0).r1 d
              (if f = .init then { s.env with transport := .ready } else s.env),
            (s.env.answerAt 0).r0, (s.env.answerAt 0).r1⟩
          (openHandshake f s)) :=
  transact_served h (serve_oracle hk)

/-- What a transport micro-operation leaves alone, served or not (R98 to R100). -/
theorem transact_frame {f : Frame} {s t : State} (h : transact f s = .next t) :
    t.cfg = s.cfg ∧ t.grain = s.grain ∧ t.rst = s.rst ∧ t.host = s.host ∧ t.codecIn = s.codecIn
      ∧ t.codecOut = s.codecOut ∧ t.env.kind = s.env.kind
      ∧ (Memory.wf s.env.mem = true → Memory.wf t.env.mem = true) := by
  obtain ⟨-, -, rfl⟩ | ⟨d, sv, -, hs, rfl⟩ := transact_next h
  · exact ⟨rfl, rfl, rfl, rfl, rfl, rfl, rfl, id⟩
  · have hn := serve_next hs
    exact ⟨rfl, rfl, rfl, rfl, rfl, rfl, hn.1, hn.2.2.2.2.2.2.2⟩

/-! ## Micro-steps without transport activity -/

/-- What such a micro-step leaves alone. -/
structure State.SameOutside (s t : State) : Prop where
  cfg : t.cfg = s.cfg
  grain : t.grain = s.grain
  rst : t.rst = s.rst
  port : t.port = s.port
  host : t.host = s.host
  codecIn : t.codecIn = s.codecIn
  codecOut : t.codecOut = s.codecOut
  mem : t.env.mem = s.env.mem
  kind : t.env.kind = s.env.kind

theorem setResult_frame (v : Word) (s : State) : State.SameOutside s (setResult v s) :=
  ⟨rfl, rfl, rfl, rfl, rfl, rfl, rfl, rfl, rfl⟩

theorem skip_frame (x y : BitVec 4) (s : State) : State.SameOutside s (skip x y s) :=
  ⟨rfl, rfl, rfl, rfl, rfl, rfl, rfl, rfl, rfl⟩

theorem respond_frame (d : Word) (st : RspStatus) (s : State) : State.SameOutside s (respond d st s) :=
  ⟨rfl, rfl, rfl, rfl, rfl, rfl, rfl, rfl, rfl⟩

theorem delay_frame (n : Nat) (s : State) : State.SameOutside s (delay n s) :=
  ⟨rfl, rfl, rfl, rfl, rfl, rfl, rfl, rfl, rfl⟩

theorem accept_frame (op : Byte) (a b : Word) (s : State) : State.SameOutside s (accept op a b s) :=
  ⟨rfl, rfl, rfl, rfl, rfl, rfl, rfl, rfl, rfl⟩

theorem delayEdge_frame (n : Nat) (s : State) : State.SameOutside s (delayEdge n s) := by
  unfold delayEdge
  split
  · split <;> exact ⟨rfl, rfl, rfl, rfl, rfl, rfl, rfl, rfl, rfl⟩
  · split <;> exact ⟨rfl, rfl, rfl, rfl, rfl, rfl, rfl, rfl, rfl⟩

/-- A delay takes exactly its ticks when TMR is 0 at its entry (R101). -/
theorem delay_now (n : Nat) (s : State) (h : s.seq.tmr = 0) : (delay n s).env.now = s.env.now + n := by
  simp [delay, endDelay, delayLeft, h, Env.record]

/-- A reset of an idle block takes the transport back and starts time again (R152, R9). -/
theorem afterReset_idle (e : Env) :
    e.afterReset false false = { e.restartClock with transport := .uninitialised } := rfl

/-- A reset of a busy block, or with a handshake open, leaves transport and chip unspecified (R156). -/
theorem afterReset_interrupted {busy tReq : Bool} (h : (busy || tReq) = true) (e : Env) :
    e.afterReset busy tReq = (e.dropHandshake tReq).restartClock.unspecify := by
  simp [Env.afterReset, h]

/-- A reset of the block after one that left the transport unspecified makes it uninitialised, and leaves the chip
as unspecified as it was (log 36). -/
theorem afterReset_again {busy tReq : Bool} (h : (busy || tReq) = true) (e : Env) :
    ((e.afterReset busy tReq).afterReset false false).transport = .uninitialised
      ∧ ((e.afterReset busy tReq).afterReset false false).mem = []
      ∧ ((e.afterReset busy tReq).afterReset false false).epoch = (e.afterReset busy tReq).epoch := by
  rw [afterReset_idle, afterReset_interrupted h]
  exact ⟨rfl, rfl, rfl⟩

/-- After any reset `now` is 0 (R9). -/
@[simp] theorem afterReset_now (busy tReq : Bool) (e : Env) : (e.afterReset busy tReq).now = 0 := by
  cases busy <;> cases tReq <;> rfl

/-- What no reset touches: the kind of environment, the history, the scripts but the transport's. -/
theorem afterReset_keeps (busy tReq : Bool) (e : Env) :
    (e.afterReset busy tReq).kind = e.kind
      ∧ (e.afterReset busy tReq).history = e.history ∧ (e.afterReset busy tReq).lags = e.lags
      ∧ (e.afterReset busy tReq).lagDraws = e.lagDraws ∧ (e.afterReset busy tReq).conversions = e.conversions
      ∧ (e.afterReset busy tReq).injections = e.injections := by
  cases busy <;> cases tReq <;> exact ⟨rfl, rfl, rfl, rfl, rfl, rfl⟩

/-- Starting time again completes no conversion and delays none: what is due a given time after the reset was due
that much after the tick of the reset. -/
theorem settle_restartClock (cfg : Config) (e : Env) (time : Nat) :
    e.restartClock.settle cfg time = (e.settle cfg (e.now + time)).restartClock := by
  unfold Env.settle
  cases hp : e.pending with
  | none => simp [Env.restartClock, hp]
  | some p =>
    obtain ⟨c, w⟩ := p
    have h : (c - e.now ≤ time) ↔ c ≤ e.now + time := by omega
    by_cases hc : c ≤ e.now + time
    · simp [Env.restartClock, hp, h, hc, Env.completeConversion, Env.setCreg, Env.creg]
    · simp [Env.restartClock, hp, h, hc]

/-- A reset keeps the canonical form of the register space. -/
theorem afterReset_wf {busy tReq : Bool} {e : Env} (h : Memory.wf e.mem = true) :
    Memory.wf (e.afterReset busy tReq).mem = true := by
  cases busy <;> cases tReq <;> first | exact h | rfl

/-- A dropped handshake takes its own answer with it (R156). -/
theorem afterReset_answerAt_open (busy : Bool) (e : Env) (k : Nat) :
    (e.afterReset busy true).answerAt k = e.answerAt (k + 1) := by
  cases busy <;> exact answerAt_shift rfl rfl k

/-- Without an open handshake the transport's answers stand. -/
theorem afterReset_answerAt_closed (busy : Bool) (e : Env) (k : Nat) :
    (e.afterReset busy false).answerAt k = e.answerAt k := by
  cases busy <;> exact answerAt_same rfl rfl k

end Sys2Proof.Machine
end

