-- ==== Sys2Proof/Laws/PerInstr.lean ====
section
/-! SUPPORT. The per-instruction family TableRow: the word of every instruction is one of its own row of
spec/opcode_table.json. -/

namespace Sys2Proof.Laws.TableRow
open Sys2Proof

/-- A row: its width in bits, the mask and match value of its word, and whether its constraint forbids the
operand code 3 in bits 17:16. -/
structure Row where
  width : Nat
  mask : BitVec 40
  value : BitVec 40
  notCode3 : Bool
  deriving DecidableEq, Repr

/-- The row of an instruction, as spec/opcode_table.json gives it (a row with an `encoding` string has the mask
of its fixed bits). -/
def rowOf : Instr → Row
  | .beginCmd .. => ⟨40, 0xFF00000000#40, 0x0000000000#40, true⟩
  | .readRtd .. => ⟨40, 0xFF00000000#40, 0x0100000000#40, false⟩
  | .readFault .. => ⟨40, 0xFF00000000#40, 0x0200000000#40, false⟩
  | .clearFault .. => ⟨40, 0xFF00000000#40, 0x0300000000#40, false⟩
  | .enableBias .. => ⟨40, 0xFF00000000#40, 0x0400000000#40, false⟩
  | .autoConvert .. => ⟨40, 0xFF00000000#40, 0x0500000000#40, false⟩
  | .setWires .. => ⟨40, 0xFF00000000#40, 0x0600000000#40, true⟩
  | .setThresholds .. => ⟨40, 0xFF00000000#40, 0x0700000000#40, false⟩
  | .getLowerThreshold .. => ⟨40, 0xFF00000000#40, 0x0800000000#40, false⟩
  | .getUpperThreshold .. => ⟨40, 0xFF00000000#40, 0x0900000000#40, false⟩
  | .illegalBeginMode3 .. => ⟨40, 0xFF00030000#40, 0x0000030000#40, false⟩
  | .illegalSetWiresMode3 .. => ⟨40, 0xFF00030000#40, 0x0600030000#40, false⟩
  | .illegalOp0A0B .. => ⟨40, 0xFE00000000#40, 0x0A00000000#40, false⟩
  | .illegalOp0C0F .. => ⟨40, 0xFC00000000#40, 0x0C00000000#40, false⟩
  | .illegalOp101F .. => ⟨40, 0xF000000000#40, 0x1000000000#40, false⟩
  | .illegalOp203F .. => ⟨40, 0xE000000000#40, 0x2000000000#40, false⟩
  | .illegalOp407F .. => ⟨40, 0xC000000000#40, 0x4000000000#40, false⟩
  | .illegalOp80FF .. => ⟨40, 0x8000000000#40, 0x8000000000#40, false⟩
  | .rd8 .. => ⟨8, 0x0000000080#40, 0x0000000000#40, false⟩
  | .rd16 .. => ⟨8, 0x0000000080#40, 0x0000000000#40, false⟩
  | .wr8 .. => ⟨16, 0x0000008000#40, 0x0000008000#40, false⟩
  | .initTransport => ⟨2, 0x0000000003#40, 0x0000000000#40, false⟩
  | .frameRdConfig => ⟨8, 0x00000000FF#40, 0x0000000000#40, false⟩
  | .frameRdRtd => ⟨8, 0x00000000FF#40, 0x0000000001#40, false⟩
  | .frameRdHthr => ⟨8, 0x00000000FF#40, 0x0000000003#40, false⟩
  | .frameRdLthr => ⟨8, 0x00000000FF#40, 0x0000000005#40, false⟩
  | .frameRdFault => ⟨8, 0x00000000FF#40, 0x0000000007#40, false⟩
  | .frameWrConfig .. => ⟨16, 0x000000FF00#40, 0x0000008000#40, false⟩
  | .frameWrHthrMsb .. => ⟨16, 0x000000FF00#40, 0x0000008300#40, false⟩
  | .frameWrHthrLsb .. => ⟨16, 0x000000FF00#40, 0x0000008400#40, false⟩
  | .frameWrLthrMsb .. => ⟨16, 0x000000FF00#40, 0x0000008500#40, false⟩
  | .frameWrLthrLsb .. => ⟨16, 0x000000FF00#40, 0x0000008600#40, false⟩
  | .configReg .. => ⟨8, 0x0000000000#40, 0x0000000000#40, false⟩
  | .faultReg .. => ⟨8, 0x0000000000#40, 0x0000000000#40, false⟩
  | .rtdWord .. => ⟨16, 0x0000000000#40, 0x0000000000#40, false⟩
  | .thresholdWord .. => ⟨16, 0x0000000000#40, 0x0000000000#40, false⟩

/-- How many bits the table gives a port word. -/
def tableWidth : PortWord → Nat
  | .cmd _ => 40
  | .tport kind _ _ _ => if kind = 0#2 then 2 else if kind = 1#2 then 16 else 8
  | .codec sel _ =>
    match sel with
    | .config | .fault => 8
    | .rtd | .threshold => 16

/-- The bits the table gives a port word: the command word, the `t_kind` of INIT, the bytes of a frame, the
register word. -/
def tableBits : PortWord → BitVec 40
  | .cmd w => w
  | .tport kind w0 w1 _ =>
    if kind = 0#2 then kind.setWidth 40
    else if kind = 1#2 then (w0 ++ w1).setWidth 40
    else w0.setWidth 40
  | .codec _ w => w.setWidth 40

/-- The instruction's word has its row's width and match value, and obeys its constraint. -/
def Statement (i : Instr) : Prop :=
  tableWidth (encode i) = (rowOf i).width
    ∧ tableBits (encode i) &&& (rowOf i).mask = (rowOf i).value
    ∧ ((rowOf i).notCode3 = true → (tableBits (encode i)).extractLsb' 16 2 ≠ 3#2)

theorem cmdWord_and (op om : Byte) (a am b bm : Word) :
    cmdWord op a b &&& cmdWord om am bm = cmdWord (op &&& om) (a &&& am) (b &&& bm) := by
  apply BitVec.eq_of_getLsbD_eq
  intro k hk
  simp only [cmdWord, BitVec.getLsbD_and, BitVec.getLsbD_append]
  split
  · rfl
  · split <;> rfl

theorem code_of_cmdWord (op : Byte) (a b : Word) :
    (cmdWord op a b).extractLsb' 16 2 = a.extractLsb' 0 2 := by
  ext k hk
  simp only [cmdWord, BitVec.getElem_extractLsb', BitVec.getLsbD_append]
  split
  · omega
  · split
    · congr 1
      omega
    · omega

theorem wireCode_ne (mode : WireMode) : wireCode mode ≠ 3#2 := by cases mode <;> decide

theorem wireField_and (x : BitVec 14) (m : BitVec 2) : wireField x m &&& 0x0003#16 = 0#14 ++ m := by
  apply BitVec.eq_of_getLsbD_eq
  intro k hk
  have h : (0x0003#16 : Word) = (0#14 : BitVec 14) ++ 3#2 := rfl
  rw [h]
  simp only [wireField, BitVec.getLsbD_and, BitVec.getLsbD_append]
  split
  · rename_i h2
    have : (3#2 : BitVec 2).getLsbD k = true := by
      have : k = 0 ∨ k = 1 := by omega
      rcases this with h | h <;> subst h <;> rfl
    rw [this, Bool.and_true]
  · simp

/-- A command word that fixes the opcode alone. -/
theorem op_only (op : Byte) (a b : Word) : cmdWord op a b &&& 0xFF00000000#40 = cmdWord op 0#16 0#16 := by
  have h : (0xFF00000000#40 : CmdWord) = cmdWord 0xFF#8 0#16 0#16 := by decide
  have h8 : op &&& 0xFF#8 = op := by revert op; decide
  rw [h, cmdWord_and, h8, BitVec.and_zero, BitVec.and_zero]

/-- A command word that fixes some of the opcode's bits. -/
theorem op_masked (op om : Byte) (a b : Word) :
    cmdWord op a b &&& cmdWord om 0#16 0#16 = cmdWord (op &&& om) 0#16 0#16 := by
  rw [cmdWord_and, BitVec.and_zero, BitVec.and_zero]

theorem beginCmd (mode : WireMode) (ignA : BitVec 14) (ignB : Word) :
    Statement (.beginCmd mode ignA ignB) := by
  refine ⟨rfl, (op_only _ _ _).trans rfl, fun _ => ?_⟩
  show (cmdWord _ _ _).extractLsb' 16 2 ≠ 3#2
  rw [code_of_cmdWord, wireField_code]
  exact wireCode_ne mode

theorem readRtd (ignA : Word) (ignB : Word) : Statement (.readRtd ignA ignB) := by
  exact ⟨rfl, (op_only _ _ _).trans rfl, nofun⟩

theorem readFault (ignA : Word) (ignB : Word) : Statement (.readFault ignA ignB) := by
  exact ⟨rfl, (op_only _ _ _).trans rfl, nofun⟩

theorem clearFault (ignA : Word) (ignB : Word) : Statement (.clearFault ignA ignB) := by
  exact ⟨rfl, (op_only _ _ _).trans rfl, nofun⟩

theorem enableBias (on : Bool) (ignA : BitVec 15) (ignB : Word) :
    Statement (.enableBias on ignA ignB) := by
  exact ⟨rfl, (op_only _ _ _).trans rfl, nofun⟩

theorem autoConvert (on : Bool) (ignA : BitVec 15) (ignB : Word) :
    Statement (.autoConvert on ignA ignB) := by
  exact ⟨rfl, (op_only _ _ _).trans rfl, nofun⟩

theorem setWires (mode : WireMode) (ignA : BitVec 14) (ignB : Word) :
    Statement (.setWires mode ignA ignB) := by
  refine ⟨rfl, (op_only _ _ _).trans rfl, fun _ => ?_⟩
  show (cmdWord _ _ _).extractLsb' 16 2 ≠ 3#2
  rw [code_of_cmdWord, wireField_code]
  exact wireCode_ne mode

theorem setThresholds (lower : Word) (upper : Word) : Statement (.setThresholds lower upper) := by
  exact ⟨rfl, (op_only _ _ _).trans rfl, nofun⟩

theorem getLowerThreshold (ignA : Word) (ignB : Word) :
    Statement (.getLowerThreshold ignA ignB) := by
  exact ⟨rfl, (op_only _ _ _).trans rfl, nofun⟩

theorem getUpperThreshold (ignA : Word) (ignB : Word) :
    Statement (.getUpperThreshold ignA ignB) := by
  exact ⟨rfl, (op_only _ _ _).trans rfl, nofun⟩

theorem illegalBeginMode3 (ignA : BitVec 14) (ignB : Word) :
    Statement (.illegalBeginMode3 ignA ignB) := by
  refine ⟨rfl, ?_, nofun⟩
  have h : (0xFF00030000#40 : CmdWord) = cmdWord 0xFF#8 0x0003#16 0#16 := by decide
  show cmdWord _ _ _ &&& 0xFF00030000#40 = _
  rw [h, cmdWord_and, wireField_and, BitVec.and_zero]
  rfl

theorem illegalSetWiresMode3 (ignA : BitVec 14) (ignB : Word) :
    Statement (.illegalSetWiresMode3 ignA ignB) := by
  refine ⟨rfl, ?_, nofun⟩
  have h : (0xFF00030000#40 : CmdWord) = cmdWord 0xFF#8 0x0003#16 0#16 := by decide
  show cmdWord _ _ _ &&& 0xFF00030000#40 = _
  rw [h, cmdWord_and, wireField_and, BitVec.and_zero]
  rfl

theorem illegalOp0A0B (low : BitVec 1) (ignA : Word) (ignB : Word) :
    Statement (.illegalOp0A0B low ignA ignB) := by
  refine ⟨rfl, ?_, nofun⟩
  have h : (0xFE00000000#40 : CmdWord) = cmdWord 0xFE#8 0#16 0#16 := by decide
  show cmdWord _ _ _ &&& 0xFE00000000#40 = _
  rw [h, op_masked]
  show _ = 0x0A00000000#40
  revert low
  decide

theorem illegalOp0C0F (low : BitVec 2) (ignA : Word) (ignB : Word) :
    Statement (.illegalOp0C0F low ignA ignB) := by
  refine ⟨rfl, ?_, nofun⟩
  have h : (0xFC00000000#40 : CmdWord) = cmdWord 0xFC#8 0#16 0#16 := by decide
  show cmdWord _ _ _ &&& 0xFC00000000#40 = _
  rw [h, op_masked]
  show _ = 0x0C00000000#40
  revert low
  decide

theorem illegalOp101F (low : BitVec 4) (ignA : Word) (ignB : Word) :
    Statement (.illegalOp101F low ignA ignB) := by
  refine ⟨rfl, ?_, nofun⟩
  have h : (0xF000000000#40 : CmdWord) = cmdWord 0xF0#8 0#16 0#16 := by decide
  show cmdWord _ _ _ &&& 0xF000000000#40 = _
  rw [h, op_masked]
  show _ = 0x1000000000#40
  revert low
  decide

theorem illegalOp203F (low : BitVec 5) (ignA : Word) (ignB : Word) :
    Statement (.illegalOp203F low ignA ignB) := by
  refine ⟨rfl, ?_, nofun⟩
  have h : (0xE000000000#40 : CmdWord) = cmdWord 0xE0#8 0#16 0#16 := by decide
  show cmdWord _ _ _ &&& 0xE000000000#40 = _
  rw [h, op_masked]
  show _ = 0x2000000000#40
  revert low
  decide

theorem illegalOp407F (low : BitVec 6) (ignA : Word) (ignB : Word) :
    Statement (.illegalOp407F low ignA ignB) := by
  refine ⟨rfl, ?_, nofun⟩
  have h : (0xC000000000#40 : CmdWord) = cmdWord 0xC0#8 0#16 0#16 := by decide
  show cmdWord _ _ _ &&& 0xC000000000#40 = _
  rw [h, op_masked]
  show _ = 0x4000000000#40
  revert low
  decide

theorem illegalOp80FF (low : BitVec 7) (ignA : Word) (ignB : Word) :
    Statement (.illegalOp80FF low ignA ignB) := by
  refine ⟨rfl, ?_, nofun⟩
  have h : (0x8000000000#40 : CmdWord) = cmdWord 0x80#8 0#16 0#16 := by decide
  show cmdWord _ _ _ &&& 0x8000000000#40 = _
  rw [h, op_masked]
  show _ = 0x8000000000#40
  revert low
  decide

theorem rd8 (a : RegAddr) : Statement (.rd8 a) := by
  revert a
  unfold Statement
  decide

theorem rd16 (a : RegAddr) : Statement (.rd16 a) := by
  revert a
  unfold Statement
  decide

theorem writeWord_mark (a : RegAddr) (v : Byte) :
    ((writeByte a ++ v).setWidth 40 : BitVec 40) &&& 0x0000008000#40 = 0x0000008000#40 := by
  apply BitVec.eq_of_getLsbD_eq
  intro k hk
  have h15 : ∀ j : Fin 40, j.val ≠ 15 → (0x0000008000#40 : BitVec 40).getLsbD j.val = false := by decide
  by_cases hk15 : k = 15
  · subst hk15
    simp only [writeByte, BitVec.getLsbD_and, BitVec.getLsbD_setWidth, BitVec.getLsbD_append]
    rfl
  · rw [BitVec.getLsbD_and, h15 ⟨k, hk⟩ hk15, Bool.and_false]

theorem wr8 (a : RegAddr) (v : Byte) : Statement (.wr8 a v) := by
  refine ⟨rfl, ?_, nofun⟩
  show ((writeByte a ++ v).setWidth 40 : BitVec 40) &&& _ = _
  exact writeWord_mark a v

theorem initTransport : Statement (.initTransport) := by
  unfold Statement
  decide

theorem frameRdConfig : Statement (.frameRdConfig) := by
  unfold Statement
  decide

theorem frameRdRtd : Statement (.frameRdRtd) := by
  unfold Statement
  decide

theorem frameRdHthr : Statement (.frameRdHthr) := by
  unfold Statement
  decide

theorem frameRdLthr : Statement (.frameRdLthr) := by
  unfold Statement
  decide

theorem frameRdFault : Statement (.frameRdFault) := by
  unfold Statement
  decide

theorem frameWrConfig (v : Byte) : Statement (.frameWrConfig v) := by
  unfold Statement
  revert v
  decide

theorem frameWrHthrMsb (v : Byte) : Statement (.frameWrHthrMsb v) := by
  unfold Statement
  revert v
  decide

theorem frameWrHthrLsb (v : Byte) : Statement (.frameWrHthrLsb v) := by
  unfold Statement
  revert v
  decide

theorem frameWrLthrMsb (v : Byte) : Statement (.frameWrLthrMsb v) := by
  unfold Statement
  revert v
  decide

theorem frameWrLthrLsb (v : Byte) : Statement (.frameWrLthrLsb v) := by
  unfold Statement
  revert v
  decide

theorem configReg (c : Byte) : Statement (.configReg c) := by
  exact ⟨rfl, BitVec.and_zero, nofun⟩

theorem faultReg (f : Byte) : Statement (.faultReg f) := by
  exact ⟨rfl, BitVec.and_zero, nofun⟩

theorem rtdWord (w : Word) : Statement (.rtdWord w) := by
  exact ⟨rfl, BitVec.and_zero, nofun⟩

theorem thresholdWord (v : Word) : Statement (.thresholdWord v) := by
  exact ⟨rfl, BitVec.and_zero, nofun⟩

end Sys2Proof.Laws.TableRow
end

