-- ==== Sys2Proof/Laws/Sequencer.lean ====
section
/-! SUPPORT. What a micro-step, an edge and a command can do, said once. -/

namespace Sys2Proof.Machine

/-- An operand that is used was live. -/
theorem withOperand_next {α : Type} {x : Except Fault α} {k : α → Host.Outcome State Fault Refusal} {t : State}
    (h : withOperand x k = .next t) : ∃ v, x = .ok v ∧ k v = .next t := by
  cases x with
  | ok v => exact ⟨v, rfl, h⟩
  | error f => cases h

/-- A live operand is used. -/
@[simp] theorem withOperand_ok {α : Type} (v : α) (k : α → Host.Outcome State Fault Refusal) :
    withOperand (.ok v) k = k v := rfl

/-- A dead operand faults (U14). -/
@[simp] theorem withOperand_error {α : Type} (f : Fault) (k : α → Host.Outcome State Fault Refusal) :
    withOperand (.error f) k = .fault f := rfl

/-- A step at `upc` runs the entry there. -/
theorem atUpc_next {k : Micro → State → Host.Outcome State Fault Refusal} {s t : State}
    (h : atUpc k s = .next t) :
    ∃ m, (currentProgram s.cfg s.seq)[s.seq.upc.toNat]? = some m ∧ k m s = .next t := by
  unfold atUpc at h
  cases hm : (currentProgram s.cfg s.seq)[s.seq.upc.toNat]? with
  | none => simp [hm] at h
  | some m => simp only [hm] at h; exact ⟨m, rfl, h⟩

/-- The entry at `upc` is the one that runs. -/
theorem atUpc_some {k : Micro → State → Host.Outcome State Fault Refusal} {s : State} {m : Micro}
    (h : (currentProgram s.cfg s.seq)[s.seq.upc.toNat]? = some m) : atUpc k s = k m s := by
  simp [atUpc, h]

/-- What one entry does as a micro-step: one transport operation, or one of the four steps without one. -/
theorem runMicro_next {m : Micro} {s t : State} (h : runMicro m s = .next t) :
    (∃ f, transact f s = .next t
        ∧ ((m = .init ∧ f = .init) ∨ (∃ a, m = .rd8 a ∧ f = .read1 a) ∨ (∃ a, m = .rd16 a ∧ f = .read2 a)
          ∨ ∃ a v byte, m = .wr8 a v ∧ v.eval s.cfg s.seq = .ok byte ∧ f = .write a byte))
      ∨ (∃ n, m = .dly n ∧ t = delay n s)
      ∨ (∃ src w, m = .setRes src ∧ src.eval s.seq = .ok w ∧ t = setResult w s)
      ∨ (∃ x y, m = .skip x y ∧ t = skip x y s)
      ∨ ∃ src st d, m = .respond src st ∧ src.eval s.seq = .ok d ∧ t = respond d st s := by
  cases m with
  | init => exact .inl ⟨.init, h, .inl ⟨rfl, rfl⟩⟩
  | rd8 a => exact .inl ⟨.read1 a, h, .inr (.inl ⟨a, rfl, rfl⟩)⟩
  | rd16 a => exact .inl ⟨.read2 a, h, .inr (.inr (.inl ⟨a, rfl, rfl⟩))⟩
  | wr8 a v =>
    obtain ⟨byte, hv, ht⟩ := withOperand_next h
    exact .inl ⟨.write a byte, ht, .inr (.inr (.inr ⟨a, v, byte, rfl, hv, rfl⟩))⟩
  | dly n => cases h; exact .inr (.inl ⟨n, rfl, rfl⟩)
  | setRes src =>
    obtain ⟨w, hw, ht⟩ := withOperand_next h
    cases ht; exact .inr (.inr (.inl ⟨src, w, rfl, hw, rfl⟩))
  | skip x y => cases h; exact .inr (.inr (.inr (.inl ⟨x, y, rfl, rfl⟩)))
  | respond src st =>
    obtain ⟨d, hd, ht⟩ := withOperand_next h
    cases ht; exact .inr (.inr (.inr (.inr ⟨src, st, d, rfl, hd, rfl⟩)))

/-- What a step leaves alone whatever the sequencer does: everything outside the sequencer, its port and the
environment. -/
structure State.SameRest (s t : State) : Prop where
  cfg : t.cfg = s.cfg
  grain : t.grain = s.grain
  rst : t.rst = s.rst
  host : t.host = s.host
  codecIn : t.codecIn = s.codecIn
  codecOut : t.codecOut = s.codecOut
  kind : t.env.kind = s.env.kind
  wf : Memory.wf s.env.mem = true → Memory.wf t.env.mem = true

theorem State.SameRest.refl (s : State) : State.SameRest s s := ⟨rfl, rfl, rfl, rfl, rfl, rfl, rfl, id⟩

theorem State.SameRest.trans {s t u : State} (h : State.SameRest s t) (g : State.SameRest t u) :
    State.SameRest s u :=
  ⟨g.cfg.trans h.cfg, g.grain.trans h.grain, g.rst.trans h.rst, g.host.trans h.host,
    g.codecIn.trans h.codecIn, g.codecOut.trans h.codecOut, g.kind.trans h.kind, g.wf ∘ h.wf⟩

theorem State.SameOutside.rest {s t : State} (h : State.SameOutside s t) : State.SameRest s t :=
  ⟨h.cfg, h.grain, h.rst, h.host, h.codecIn, h.codecOut, h.kind, fun hw => by rw [h.mem]; exact hw⟩

theorem transact_rest {f : Frame} {s t : State} (h : transact f s = .next t) : State.SameRest s t := by
  obtain ⟨h1, h2, h3, h4, h5, h6, h7, h8⟩ := transact_frame h
  exact ⟨h1, h2, h3, h4, h5, h6, h7, h8⟩

theorem runMicro_rest {m : Micro} {s t : State} (h : runMicro m s = .next t) : State.SameRest s t := by
  obtain ⟨f, hf, -⟩ | ⟨n, -, rfl⟩ | ⟨src, w, -, -, rfl⟩ | ⟨x, y, -, rfl⟩ | ⟨src, st, d, -, -, rfl⟩ :=
    runMicro_next h
  · exact transact_rest hf
  · exact (delay_frame n s).rest
  · exact (setResult_frame w s).rest
  · exact (skip_frame x y s).rest
  · exact (respond_frame d st s).rest

theorem microStep_rest {s t : State} (h : microStep s = .next t) : State.SameRest s t := by
  obtain ⟨m, -, hm⟩ := atUpc_next h
  exact runMicro_rest hm

theorem edgeMicro_rest {m : Micro} {s t : State} (h : edgeMicro m s = .next t) : State.SameRest s t := by
  have open_rest : ∀ f, State.SameRest s (openHandshake f s) := fun f => ⟨rfl, rfl, rfl, rfl, rfl, rfl, rfl, id⟩
  cases m with
  | init => cases h; exact open_rest _
  | rd8 a => cases h; exact open_rest _
  | rd16 a => cases h; exact open_rest _
  | wr8 a v => obtain ⟨byte, -, ht⟩ := withOperand_next h; cases ht; exact open_rest _
  | dly n => cases h; exact (delayEdge_frame n s).rest
  | setRes src => obtain ⟨w, -, ht⟩ := withOperand_next h; cases ht; exact (setResult_frame w s).rest
  | skip x y => cases h; exact (skip_frame x y s).rest
  | respond src st => obtain ⟨d, -, ht⟩ := withOperand_next h; cases ht; exact (respond_frame d st s).rest

theorem edgeStep_rest {s t : State} (h : edgeStep s = .next t) : State.SameRest s t := by
  obtain ⟨m, -, hm⟩ := atUpc_next h
  exact edgeMicro_rest hm

/-- A command goes on by one micro-step. -/
theorem runCommand_step {n : Nat} {s t : State} (hb : s.seq.busy = true) (hr : s.port.tReq = false)
    (h : microStep s = .next t) : runCommand (n + 1) s = runCommand n t := by
  simp [runCommand, hb, hr, h]

/-- A command that has responded, or whose handshake stays open, goes no further. -/
theorem runCommand_done {n : Nat} {s : State} (h : s.seq.busy = false ∨ s.port.tReq = true) :
    runCommand n s = .next s := by
  cases n with
  | zero => rfl
  | succ n => rcases h with h | h <;> simp [runCommand, h]

/-- What holds before and is kept by every micro-step of a busy block whose port is at rest holds after. -/
theorem runCommand_keeps {P : State → Prop}
    (hstep : ∀ s t, s.seq.busy = true → s.port.tReq = false → microStep s = .next t → P s → P t) :
    ∀ (n : Nat) (s t : State), runCommand n s = .next t → P s → P t := by
  intro n
  induction n with
  | zero => intro s t h hp; cases h; exact hp
  | succ n ih =>
    intro s t h hp
    simp only [runCommand] at h
    split at h
    · rename_i hc
      have hc' : s.seq.busy = true ∧ s.port.tReq = false := by simpa using hc
      split at h
      · exact ih _ _ h (hstep _ _ hc'.1 hc'.2 ‹_› hp)
      · cases h
      · cases h
    · cases h; exact hp

theorem runCommand_rest {n : Nat} {s t : State} (h : runCommand n s = .next t) : State.SameRest s t :=
  runCommand_keeps (P := State.SameRest s) (fun _ _ _ _ hm hp => hp.trans (microStep_rest hm)) n s t h (.refl s)

/-- A command presented to a busy block is not taken (R26). -/
theorem command_busy {op : Byte} {a b : Word} {s : State} (h : s.seq.busy = true) :
    command op a b s = .next s := by
  simp [command, h]

/-- A command presented to a block that is ready is accepted and run (R26, R105). -/
theorem command_ready {op : Byte} {a b : Word} {s : State} (h : s.seq.busy = false) :
    command op a b s = runCommand commandFuel (accept op a b s) := by
  simp [command, h]

theorem command_rest {op : Byte} {a b : Word} {s t : State} (h : command op a b s = .next t) :
    State.SameRest s t := by
  unfold command at h
  split at h
  · cases h; exact .refl s
  · exact (accept_frame op a b s).rest.trans (runCommand_rest h)

end Sys2Proof.Machine
end

