-- ==== Sys2Proof/Laws/Step.lean ====
section
/-! SUPPORT. What one step can be, and what every instruction leaves alone. -/

namespace Sys2Proof.Machine

/-- Under which inputs a step is which (R142). -/
theorem step_next {s t : State} (h : step s = .next t) :
    (s.rst = true ∧ t = applyReset s)
      ∨ (s.rst = false ∧ ∃ sel w i, s.codecIn = some (sel, w) ∧ decode (.codec sel w) = .ok i
          ∧ exec i s = .next t)
      ∨ (s.rst = false ∧ s.codecIn = none ∧ s.port.tReq = true
          ∧ ∃ i, decode s.port.word = .ok i ∧ exec i s = .next t)
      ∨ (s.rst = false ∧ s.codecIn = none ∧ s.port.tReq = false ∧ s.seq.busy = true
          ∧ continueCommand s = .next t)
      ∨ (s.rst = false ∧ s.codecIn = none ∧ s.port.tReq = false ∧ s.seq.busy = false
          ∧ ((s.host = [] ∧ t = tick s)
            ∨ (∃ n rest, s.host = .wait n :: rest ∧ t = hostWait n rest s)
            ∨ (∃ w rest, s.host = .present w :: rest ∧ s.grain = .command
                ∧ exec (decodeCmd w) (s.setHost rest) = .next t)
            ∨ (∃ w rest, s.host = .present w :: rest ∧ s.grain ≠ .command
                ∧ t = accept (cmdOp w) (cmdA w) (cmdB w) (s.setHost rest)))) := by
  unfold step fetch at h
  cases hr : s.rst with
  | true => simp only [hr] at h; cases h; exact .inl ⟨rfl, rfl⟩
  | false =>
    simp only [hr, Bool.false_eq_true, if_false] at h
    right
    cases hc : s.codecIn with
    | some p =>
      obtain ⟨sel, w⟩ := p
      simp only [hc, runWord] at h
      cases hd : decode (.codec sel w) with
      | ok i => rw [hd] at h; exact .inl ⟨rfl, sel, w, i, rfl, hd, h⟩
      | error x => simp [hd] at h
    | none =>
      simp only [hc] at h
      right
      cases ht : s.port.tReq with
      | true =>
        simp only [ht, if_true, runWord] at h
        cases hd : decode s.port.word with
        | ok i => rw [hd] at h; exact .inl ⟨rfl, rfl, rfl, i, rfl, h⟩
        | error x => simp [hd] at h
      | false =>
        simp only [ht, Bool.false_eq_true, if_false] at h
        right
        cases hb : s.seq.busy with
        | true => simp only [hb, if_true] at h; exact .inl ⟨rfl, rfl, rfl, rfl, h⟩
        | false =>
          simp only [hb, Bool.false_eq_true, if_false, fetchCommand] at h
          refine .inr ⟨rfl, rfl, rfl, rfl, ?_⟩
          cases hh : s.host with
          | nil => simp only [hh] at h; cases h; exact .inl ⟨rfl, rfl⟩
          | cons x rest =>
            right
            cases x with
            | wait n => simp only [hh] at h; cases h; exact .inl ⟨n, rest, rfl, rfl⟩
            | present w =>
              right
              cases hg : s.grain with
              | command =>
                simp only [hh, hg, runWord, decode] at h; exact .inl ⟨w, rest, rfl, rfl, h⟩
              | micro => simp only [hh, hg] at h; cases h; exact .inr ⟨w, rest, rfl, by simp, rfl⟩
              | edge => simp only [hh, hg] at h; cases h; exact .inr ⟨w, rest, rfl, by simp, rfl⟩

/-- What the sequencer does of its own accord leaves everything outside it alone. -/
theorem continueCommand_rest {s t : State} (h : continueCommand s = .next t) : State.SameRest s t := by
  unfold continueCommand at h
  split at h
  · exact runCommand_rest h
  · exact microStep_rest h
  · exact edgeStep_rest h

/-- No instruction changes the parameters, the grain, the reset input, the host's actions or the kind of
environment, and every one keeps the canonical form of the register space. -/
theorem exec_keeps {i : Instr} {s t : State} (h : exec i s = .next t) :
    t.cfg = s.cfg ∧ t.grain = s.grain ∧ t.rst = s.rst ∧ t.host = s.host ∧ t.env.kind = s.env.kind
      ∧ (Memory.wf s.env.mem = true → Memory.wf t.env.mem = true) := by
  have of_rest : ∀ {s t : State}, State.SameRest s t → t.cfg = s.cfg ∧ t.grain = s.grain ∧ t.rst = s.rst
      ∧ t.host = s.host ∧ t.env.kind = s.env.kind
      ∧ (Memory.wf s.env.mem = true → Memory.wf t.env.mem = true) :=
    fun g => ⟨g.cfg, g.grain, g.rst, g.host, g.kind, g.wf⟩
  cases i with
  | beginCmd mode ignA ignB => exact of_rest (command_rest h)
  | readRtd ignA ignB => exact of_rest (command_rest h)
  | readFault ignA ignB => exact of_rest (command_rest h)
  | clearFault ignA ignB => exact of_rest (command_rest h)
  | enableBias on ignA ignB => exact of_rest (command_rest h)
  | autoConvert on ignA ignB => exact of_rest (command_rest h)
  | setWires mode ignA ignB => exact of_rest (command_rest h)
  | setThresholds lower upper => exact of_rest (command_rest h)
  | getLowerThreshold ignA ignB => exact of_rest (command_rest h)
  | getUpperThreshold ignA ignB => exact of_rest (command_rest h)
  | illegalBeginMode3 ignA ignB => exact of_rest (command_rest h)
  | illegalSetWiresMode3 ignA ignB => exact of_rest (command_rest h)
  | illegalOp0A0B low ignA ignB => exact of_rest (command_rest h)
  | illegalOp0C0F low ignA ignB => exact of_rest (command_rest h)
  | illegalOp101F low ignA ignB => exact of_rest (command_rest h)
  | illegalOp203F low ignA ignB => exact of_rest (command_rest h)
  | illegalOp407F low ignA ignB => exact of_rest (command_rest h)
  | illegalOp80FF low ignA ignB => exact of_rest (command_rest h)
  | rd8 a => exact of_rest (transact_rest h)
  | rd16 a => exact of_rest (transact_rest h)
  | wr8 a v => exact of_rest (transact_rest h)
  | initTransport => exact of_rest (transact_rest h)
  | frameRdConfig => exact of_rest (transact_rest h)
  | frameRdRtd => exact of_rest (transact_rest h)
  | frameRdHthr => exact of_rest (transact_rest h)
  | frameRdLthr => exact of_rest (transact_rest h)
  | frameRdFault => exact of_rest (transact_rest h)
  | frameWrConfig v => exact of_rest (transact_rest h)
  | frameWrHthrMsb v => exact of_rest (transact_rest h)
  | frameWrHthrLsb v => exact of_rest (transact_rest h)
  | frameWrLthrMsb v => exact of_rest (transact_rest h)
  | frameWrLthrLsb v => exact of_rest (transact_rest h)
  | configReg c => cases h; exact ⟨rfl, rfl, rfl, rfl, rfl, id⟩
  | faultReg f => cases h; exact ⟨rfl, rfl, rfl, rfl, rfl, id⟩
  | rtdWord w => cases h; exact ⟨rfl, rfl, rfl, rfl, rfl, id⟩
  | thresholdWord v => cases h; exact ⟨rfl, rfl, rfl, rfl, rfl, id⟩

end Sys2Proof.Machine
end

