-- ==== Sys2Proof/Tests/Slice0.lean ====
section
/-! SUPPORT. Tests on fixed values, expected results from spec/95_test_vectors.md and spec/30_encoding.md, and a
witness for the hypotheses of each statement. -/

namespace Sys2Proof.Tests
open Sys2Proof Sys2Proof.Machine

set_option maxRecDepth 20000

/-! ## Helpers -/

/-- The outcome is a next state with the property. -/
def nextWith (o : Host.Outcome State Fault Refusal) (p : State → Bool) : Bool :=
  match o with
  | .next t => p t
  | .fault _ => false
  | .refused _ => false

/-- The outcome is the refusal. -/
def refusedWith (o : Host.Outcome State Fault Refusal) (x : Refusal) : Bool :=
  match o with
  | .next _ => false
  | .fault _ => false
  | .refused y => x == y

/-- The outcome is the fault. -/
def faultedWith (o : Host.Outcome State Fault Refusal) (x : Fault) : Bool :=
  match o with
  | .next _ => false
  | .fault y => x == y
  | .refused _ => false

theorem exists_next {o : Host.Outcome State Fault Refusal} (h : nextWith o (fun _ => true) = true) :
    ∃ t, o = .next t := by
  cases o with
  | next t => exact ⟨t, rfl⟩
  | fault _ => cases h
  | refused _ => cases h

theorem exists_fault {o : Host.Outcome State Fault Refusal} {x : Fault} (h : faultedWith o x = true) :
    o = .fault x := by
  cases o with
  | next _ => cases h
  | fault y => rw [show x = y by simpa [faultedWith] using h]
  | refused _ => cases h

/-- A block at rest in front of an oracle that returns these pairs of bytes, each after 16 ticks. -/
def oracleState (bno : Bool) (bytes : List (Byte × Byte)) : State :=
  { State.reset with
    cfg := Config.defaults bno
    env := { Env.start with
      answers := bytes.map fun p => ⟨some 16, p.1, p.2⟩
      lags := List.replicate 4 0 } }

/-- A block at rest in front of an initialised ENV-REF with this configuration and fault byte. -/
def refState (bno : Bool) (config fault : Byte) : State :=
  { State.reset with
    cfg := Config.defaults bno
    env := { Env.start with
      kind := .envRef
      transport := .ready
      mem := [(0, config), (1, 0xAA#8), (2, 0xBB#8), (3, 0x12#8), (4, 0x34#8), (5, 0x56#8), (6, 0x78#8), (7, fault)]
      answers := List.replicate 13 ⟨some 16, 0#8, 0#8⟩
      lags := List.replicate 4 0
      conversions := [(52000, 0xC801#16)] } }

/-- What was recorded, without the times. -/
def events (s : State) : List EventKind := s.env.history.map fun e => e.what

/-! ## Well-formedness refuses -/

theorem test_illformed_rd8_00 : (Instr.rd8 0x00#7).wellFormed = false := by decide
theorem test_illformed_rd8_07 : (Instr.rd8 0x07#7).wellFormed = false := by decide
theorem test_illformed_rd16_01 : (Instr.rd16 0x01#7).wellFormed = false := by decide
theorem test_illformed_rd16_03 : (Instr.rd16 0x03#7).wellFormed = false := by decide
theorem test_illformed_rd16_05 : (Instr.rd16 0x05#7).wellFormed = false := by decide
theorem test_illformed_wr8_00 : (Instr.wr8 0x00#7 0x11#8).wellFormed = false := by decide
theorem test_illformed_wr8_03 : (Instr.wr8 0x03#7 0x11#8).wellFormed = false := by decide
theorem test_illformed_wr8_04 : (Instr.wr8 0x04#7 0x11#8).wellFormed = false := by decide
theorem test_illformed_wr8_05 : (Instr.wr8 0x05#7 0x11#8).wellFormed = false := by decide
theorem test_illformed_wr8_06 : (Instr.wr8 0x06#7 0x11#8).wellFormed = false := by decide
theorem test_illformed_address_high :
    Config.addressesOk { Config.defaults true with aFault := 0x87#8 } = false := by decide
theorem test_illformed_pair_rtd :
    Config.pairsOk { Config.defaults true with aRtdLsb := 0x03#8 } = false := by decide
theorem test_illformed_pair_hthr :
    Config.pairsOk { Config.defaults true with aHthrLsb := 0x02#8 } = false := by decide
theorem test_illformed_pair_lthr :
    Config.pairsOk { Config.defaults true with aLthrLsb := 0x00#8 } = false := by decide
theorem test_illformed_cfg_overlap :
    Config.cfgMasksOk { Config.defaults true with mAuto := 0x80#8 } = false := by decide
theorem test_illformed_cfg_uncovered :
    Config.cfgMasksOk { Config.defaults true with mFilt := 0x00#8 } = false := by decide
theorem test_illformed_cfg_fcycle_one_bit :
    Config.cfgMasksOk { Config.defaults true with mFcycle := 0x08#8 } = false := by decide
theorem test_illformed_fault_overlap :
    Config.faultMasksOk { Config.defaults true with fOvUv := 0x08#8 } = false := by decide
theorem test_illformed_fault_two_bits :
    Config.faultMasksOk { Config.defaults true with fOvUv := 0x06#8 } = false := by decide
theorem test_illformed_ticks_too_wide :
    Config.ticksOk { Config.defaults true with tickHz := 1200000 } = false := by decide
theorem test_illformed_ticks_none :
    Config.ticksOk { Config.defaults true with tickHz := 0 } = false := by decide
theorem test_illformed_ref_map_high :
    Config.refMapOk { Config.defaults true with aFault := 0x08#8 } = false := by decide
theorem test_illformed_ref_map_shared :
    Config.refMapOk { Config.defaults true with aFault := 0x06#8 } = false := by decide
theorem test_illformed_clear_mask_bias :
    Config.clearMaskPreserves { Config.defaults true with clearFaultClearMask := 0x8C#8 } = false := by decide
theorem test_illformed_record : Config.wf { Config.defaults true with aFault := 0x87#8 } = false := by decide

/-! ## Decoding: words written out from spec/30_encoding.md and 95 section 2.1 -/

theorem test_decode_beginCmd :
    decode (.cmd 0x00FFFDBEEF#40) = .ok (.beginCmd .three 0x3FFF#14 0xBEEF#16) := by decide
theorem test_decode_readRtd :
    decode (.cmd 0x0112345678#40) = .ok (.readRtd 0x1234#16 0x5678#16) := by decide
theorem test_decode_readFault :
    decode (.cmd 0x0200000000#40) = .ok (.readFault 0x0000#16 0x0000#16) := by decide
theorem test_decode_clearFault :
    decode (.cmd 0x0300000000#40) = .ok (.clearFault 0x0000#16 0x0000#16) := by decide
theorem test_decode_enableBias :
    decode (.cmd 0x0400010000#40) = .ok (.enableBias true 0x0000#15 0x0000#16) := by decide
theorem test_decode_enableBias_false :
    decode (.cmd 0x04FFFE0000#40) = .ok (.enableBias false 0x7FFF#15 0x0000#16) := by decide
theorem test_decode_autoConvert :
    decode (.cmd 0x0500010000#40) = .ok (.autoConvert true 0x0000#15 0x0000#16) := by decide
theorem test_decode_setWires :
    decode (.cmd 0x0600020000#40) = .ok (.setWires .four 0x0000#14 0x0000#16) := by decide
theorem test_decode_setThresholds :
    decode (.cmd 0x071234ABCD#40) = .ok (.setThresholds 0x1234#16 0xABCD#16) := by decide
theorem test_decode_getLowerThreshold :
    decode (.cmd 0x0800000000#40) = .ok (.getLowerThreshold 0x0000#16 0x0000#16) := by decide
theorem test_decode_getUpperThreshold :
    decode (.cmd 0x0900000000#40) = .ok (.getUpperThreshold 0x0000#16 0x0000#16) := by decide
theorem test_decode_illegalBeginMode3 :
    decode (.cmd 0x0000030000#40) = .ok (.illegalBeginMode3 0x0000#14 0x0000#16) := by decide
theorem test_decode_illegalSetWiresMode3 :
    decode (.cmd 0x0600030000#40) = .ok (.illegalSetWiresMode3 0x0000#14 0x0000#16) := by decide
theorem test_decode_illegalOp0A0B :
    decode (.cmd 0x0B00000000#40) = .ok (.illegalOp0A0B 1#1 0x0000#16 0x0000#16) := by decide
theorem test_decode_illegalOp0C0F :
    decode (.cmd 0x0E00000000#40) = .ok (.illegalOp0C0F 2#2 0x0000#16 0x0000#16) := by decide
theorem test_decode_illegalOp101F :
    decode (.cmd 0x1900000000#40) = .ok (.illegalOp101F 9#4 0x0000#16 0x0000#16) := by decide
theorem test_decode_illegalOp203F :
    decode (.cmd 0x3F00000000#40) = .ok (.illegalOp203F 31#5 0x0000#16 0x0000#16) := by decide
theorem test_decode_illegalOp407F :
    decode (.cmd 0x4000000000#40) = .ok (.illegalOp407F 0#6 0x0000#16 0x0000#16) := by decide
theorem test_decode_illegalOp80FF :
    decode (.cmd 0xFFFFFFFFFF#40) = .ok (.illegalOp80FF 127#7 0xFFFF#16 0xFFFF#16) := by decide
theorem test_decode_rd8 :
    decode (.tport 2#2 0x02#8 0x00#8 1#2) = .ok (.rd8 0x02#7) := by decide
theorem test_decode_rd16 :
    decode (.tport 2#2 0x7E#8 0x00#8 2#2) = .ok (.rd16 0x7E#7) := by decide
theorem test_decode_wr8 :
    decode (.tport 1#2 0x87#8 0x5A#8 0#2) = .ok (.wr8 0x07#7 0x5A#8) := by decide
theorem test_decode_initTransport :
    decode (.tport 0#2 0x00#8 0x00#8 0#2) = .ok (.initTransport) := by decide
theorem test_decode_frameRdConfig :
    decode (.tport 2#2 0x00#8 0x00#8 1#2) = .ok (.frameRdConfig) := by decide
theorem test_decode_frameRdRtd :
    decode (.tport 2#2 0x01#8 0x00#8 2#2) = .ok (.frameRdRtd) := by decide
theorem test_decode_frameRdHthr :
    decode (.tport 2#2 0x03#8 0x00#8 2#2) = .ok (.frameRdHthr) := by decide
theorem test_decode_frameRdLthr :
    decode (.tport 2#2 0x05#8 0x00#8 2#2) = .ok (.frameRdLthr) := by decide
theorem test_decode_frameRdFault :
    decode (.tport 2#2 0x07#8 0x00#8 1#2) = .ok (.frameRdFault) := by decide
theorem test_decode_frameWrConfig :
    decode (.tport 1#2 0x80#8 0x91#8 0#2) = .ok (.frameWrConfig 0x91#8) := by decide
theorem test_decode_frameWrHthrMsb :
    decode (.tport 1#2 0x83#8 0xAB#8 0#2) = .ok (.frameWrHthrMsb 0xAB#8) := by decide
theorem test_decode_frameWrHthrLsb :
    decode (.tport 1#2 0x84#8 0xCD#8 0#2) = .ok (.frameWrHthrLsb 0xCD#8) := by decide
theorem test_decode_frameWrLthrMsb :
    decode (.tport 1#2 0x85#8 0x12#8 0#2) = .ok (.frameWrLthrMsb 0x12#8) := by decide
theorem test_decode_frameWrLthrLsb :
    decode (.tport 1#2 0x86#8 0x34#8 0#2) = .ok (.frameWrLthrLsb 0x34#8) := by decide
theorem test_decode_configReg :
    decode (.codec .config 0x00D1#16) = .ok (.configReg 0xD1#8) := by decide
theorem test_decode_faultReg :
    decode (.codec .fault 0x0084#16) = .ok (.faultReg 0x84#8) := by decide
theorem test_decode_rtdWord :
    decode (.codec .rtd 0xC801#16) = .ok (.rtdWord 0xC801#16) := by decide
theorem test_decode_thresholdWord :
    decode (.codec .threshold 0xABCD#16) = .ok (.thresholdWord 0xABCD#16) := by decide
theorem test_reject_kind3 : decode (.tport 3#2 0x00#8 0x00#8 0#2) = .error .kindNeverDriven := by decide
theorem test_reject_read_marked : decode (.tport 2#2 0x81#8 0x00#8 1#2) = .error .badAddressMark := by decide
theorem test_reject_write_unmarked : decode (.tport 1#2 0x00#8 0x00#8 0#2) = .error .badAddressMark := by decide
theorem test_reject_read_length : decode (.tport 2#2 0x00#8 0x00#8 3#2) = .error .badReadLength := by decide
theorem test_reject_layout_wide : decode (.codec .config 0x0100#16) = .error .layoutTooWide := by decide
theorem test_table_command : decodeTableWord 40 0x0A00000000 = some (.illegalOp0A0B 0#1 0x0000#16 0x0000#16) := by decide
theorem test_table_write : decodeTableWord 16 0x8634 = some (.frameWrLthrLsb 0x34#8) := by decide
theorem test_table_read : decodeTableWord 8 0x05 = some .frameRdLthr := by decide
theorem test_table_read_byte : decodeTableWord 8 0x02 = some (.rd8 0x02#7) := by decide

/-! ## The codec and the tick counts (95 sections 2.2, 2.3) -/

theorem test_cfg_unpack :
    cfgUnpack (Config.defaults true) 0x2C#8 = ⟨false, false, true, false, 3#2, false, false⟩ := by decide
theorem test_cfg_pack :
    cfgPack (Config.defaults true) ⟨false, false, false, false, 2#2, false, false⟩ = 0x08#8 := by decide
theorem test_fault_pack :
    faultPack (Config.defaults true) ⟨true, false, false, false, false, true, 0x00#8⟩ = 0x84#8 := by decide
theorem test_word_join : wordJoin 0xC8#8 0x01#8 = 0xC801#16 := by decide
theorem test_wire_bit : wireBit (Config.defaults true) .four 0xD1#8 = 0xC1#8 := by decide
theorem test_clear_fault_byte : clearFaultByte (Config.defaults true) 0x9D#8 = 0x93#8 := by decide
theorem test_ticks_default :
    ((Config.defaults true).settleTicks, (Config.defaults true).convTicks) = (10000, 55000) := by decide
theorem test_ticks_rounded_up :
    (Config.ticksOf 10 32768, Config.ticksOf 55 32768, Config.ticksOf 55 1500) = (328, 1803, 83) := by decide

/-! ## The commands (95 sections 2.4 to 2.7 and part 3) -/

/-- P1: BEGIN(3-wire), presented as `00 0001 0000` to a block in reset state. -/
theorem test_beginCmd :
    nextWith (step { refState true 0xC1#8 0x84#8 with
      host := [.present 0x0000010000#40]
      env := { (refState true 0xC1#8 0x84#8).env with
        transport := .uninitialised, answers := ⟨some 1, 0#8, 0#8⟩ :: List.replicate 12 ⟨some 16, 0#8, 0#8⟩ } })
      (fun t => t.env.mem == [(0, 0x11#8), (1, 0xAA#8), (2, 0xBB#8), (3, 0xFF#8), (4, 0xFF#8), (5, 0x00#8),
          (6, 0x00#8), (7, 0x00#8)]
        && t.env.now == 193 && t.seq.rspStatus == .ok && t.seq.rspValid && t.env.transport == .ready) = true := by
  decide

/-- 95 section 2.7: ENV-REF refuses the 1-shot bit written back while a conversion is pending. -/
theorem test_beginCmd_refused :
    refusedWith (exec (.beginCmd .two 0#14 0#16) (refState true 0x7F#8 0x00#8)) .envRefOneShotWhilePending
      = true := by decide

/-- The fourth row of 95 section 2.6. -/
theorem test_readRtd_switched :
    nextWith (exec (.readRtd 0#16 0#16)
        (oracleState true [(0x11#8, 0#8), (0#8, 0#8), (0x11#8, 0#8), (0#8, 0#8), (0x80#8, 0x00#8), (0xB1#8, 0#8), (0#8, 0#8)]))
      (fun t => events t == [.writeThenRead 0x00#8 1 [0x11#8], .write 0x80#8 0x91#8, .delayElapsed 10000,
          .writeThenRead 0x00#8 1 [0x11#8], .write 0x80#8 0x31#8, .delayElapsed 55000,
          .writeThenRead 0x01#8 2 [0x80#8, 0x00#8], .writeThenRead 0x00#8 1 [0xB1#8], .write 0x80#8 0x31#8,
          .response 0x4000#16 .ok]) = true := by decide

/-- The third row with `BIAS_NORMALLY_OFF` = 0. -/
theorem test_readRtd_left_on :
    nextWith (exec (.readRtd 0#16 0#16) (oracleState false [(0xA1#8, 0#8), (0#8, 0#8), (0xFF#8, 0xFE#8)]))
      (fun t => events t == [.writeThenRead 0x00#8 1 [0xA1#8], .write 0x80#8 0xA1#8, .delayElapsed 55000,
          .writeThenRead 0x01#8 2 [0xFF#8, 0xFE#8], .response 0x7FFF#16 .ok]) = true := by decide

theorem test_readFault :
    nextWith (exec (.readFault 0#16 0#16) (refState true 0x00#8 0x84#8))
      (fun t => t.seq.rspData == 0x0084#16 && t.env.mem == (refState true 0x00#8 0x84#8).env.mem) = true := by decide

theorem test_clearFault :
    nextWith (exec (.clearFault 0#16 0#16) (refState true 0x9D#8 0x48#8))
      (fun t => events t == [.writeThenRead 0x00#8 1 [0x9D#8], .write 0x80#8 0x93#8, .response 0x0000#16 .ok]
        && t.env.creg 0x00#8 == 0x91#8 && t.env.creg 0x07#8 == 0x00#8) = true := by decide

theorem test_clearFault_oracle :
    nextWith (exec (.clearFault 0#16 0#16) (oracleState true [(0xFF#8, 0#8), (0#8, 0#8)]))
      (fun t => events t == [.writeThenRead 0x00#8 1 [0xFF#8], .write 0x80#8 0xD3#8, .response 0x0000#16 .ok])
      = true := by decide

theorem test_enableBias_on :
    nextWith (exec (.enableBias true 0#15 0#16) (refState true 0x11#8 0x00#8))
      (fun t => t.env.creg 0x00#8 == 0x91#8 && t.seq.rspData == 0x0000#16) = true := by decide

theorem test_enableBias_off :
    nextWith (exec (.enableBias false 0#15 0#16) (refState true 0xDD#8 0x00#8))
      (fun t => events t == [.writeThenRead 0x00#8 1 [0xDD#8], .write 0x80#8 0x5D#8, .response 0x0000#16 .ok])
      = true := by decide

theorem test_autoConvert_on :
    nextWith (exec (.autoConvert true 0#15 0#16) (refState true 0x91#8 0x00#8))
      (fun t => t.env.creg 0x00#8 == 0xD1#8) = true := by decide

theorem test_autoConvert_off :
    nextWith (exec (.autoConvert false 0#15 0#16) (refState true 0xD1#8 0x00#8))
      (fun t => t.env.creg 0x00#8 == 0x91#8) = true := by decide

theorem test_setWires_three :
    nextWith (exec (.setWires .three 0#14 0#16) (refState true 0xC1#8 0x00#8))
      (fun t => t.env.creg 0x00#8 == 0xD1#8) = true := by decide

theorem test_setWires_four :
    nextWith (exec (.setWires .four 0#14 0#16) (refState true 0xD1#8 0x00#8))
      (fun t => t.env.creg 0x00#8 == 0xC1#8) = true := by decide

theorem test_setThresholds :
    nextWith (exec (.setThresholds 0x1234#16 0xABCD#16) (refState true 0x11#8 0x00#8))
      (fun t => events t == [.write 0x86#8 0x34#8, .write 0x85#8 0x12#8, .write 0x84#8 0xCD#8,
          .write 0x83#8 0xAB#8, .response 0x0000#16 .ok]
        && t.env.mem.map Prod.snd == [0x11#8, 0xAA#8, 0xBB#8, 0xAB#8, 0xCD#8, 0x12#8, 0x34#8, 0x00#8]) = true := by
  decide

theorem test_getLowerThreshold :
    nextWith (exec (.getLowerThreshold 0#16 0#16) (oracleState true [(0x12#8, 0x34#8)]))
      (fun t => events t == [.writeThenRead 0x05#8 2 [0x12#8, 0x34#8], .response 0x1234#16 .ok]) = true := by
  decide

theorem test_getUpperThreshold :
    nextWith (exec (.getUpperThreshold 0#16 0#16) (oracleState true [(0xAB#8, 0xCD#8)]))
      (fun t => events t == [.writeThenRead 0x03#8 2 [0xAB#8, 0xCD#8], .response 0xABCD#16 .ok]) = true := by
  decide

/-! ## The illegal words: P4 and R139 -/

/-- An illegal word's whole effect: the response, no frame, T, R and RES dead, Idle. -/
def isIllegalAnswer (t : State) : Bool :=
  events t == [.response 0x0000#16 .illegal] && t.seq.rspStatus == .illegal && t.seq.rspData == 0x0000#16
    && !t.seq.busy && !t.seq.tLive && !t.seq.rLive && !t.seq.resLive && !t.port.tReq

theorem test_illegalBeginMode3 :
    nextWith (exec (.illegalBeginMode3 0x3FFF#14 0xFFFF#16) (oracleState true [])) isIllegalAnswer = true := by decide
theorem test_illegalSetWiresMode3 :
    nextWith (exec (.illegalSetWiresMode3 0#14 0#16) (oracleState true [])) isIllegalAnswer = true := by decide
theorem test_illegalOp0A0B :
    nextWith (exec (.illegalOp0A0B 0#1 0#16 0#16) (oracleState true [])) isIllegalAnswer = true := by decide
theorem test_illegalOp0C0F :
    nextWith (exec (.illegalOp0C0F 3#2 0#16 0#16) (oracleState true [])) isIllegalAnswer = true := by decide
theorem test_illegalOp101F :
    nextWith (exec (.illegalOp101F 5#4 0#16 0#16) (oracleState true [])) isIllegalAnswer = true := by decide
theorem test_illegalOp203F :
    nextWith (exec (.illegalOp203F 31#5 0#16 0#16) (oracleState true [])) isIllegalAnswer = true := by decide
theorem test_illegalOp407F :
    nextWith (exec (.illegalOp407F 0#6 0#16 0#16) (oracleState true [])) isIllegalAnswer = true := by decide
theorem test_illegalOp80FF :
    nextWith (exec (.illegalOp80FF 127#7 0xFFFF#16 0xFFFF#16) (oracleState true [])) isIllegalAnswer = true := by decide

/-- P4: the illegal word as the first instruction after reset. -/
theorem test_illegal_from_reset :
    nextWith (step (State.reset.withFetchWord 40 0x0A00000000)) (fun t => t.seq.rspStatus == .illegal) = true := by
  decide

/-- P4: a command before BEGIN. -/
theorem test_readFault_before_begin :
    faultedWith (exec (.readFault 0#16 0#16)
      { refState true 0x00#8 0x00#8 with
        env := { (refState true 0x00#8 0x00#8).env with transport := .uninitialised } })
      .transportNotInitialised = true := by decide

/-- P4 with a transport that never answers: the fault of R60 comes at the request. -/
theorem test_unanswered_before_begin :
    faultedWith (exec (.readFault 0#16 0#16)
      { State.reset with env := { Env.start with kind := .envRef, answers := [⟨none, 0#8, 0#8⟩] } })
      .transportNotInitialised = true := by decide

/-! ## Micro-operations and frames (95 section 2.3) -/

theorem test_rd8 :
    nextWith (exec (.rd8 0x02#7) (oracleState true [(0x5A#8, 0#8)]))
      (fun t => events t == [.writeThenRead 0x02#8 1 [0x5A#8]] && t.seq.t == 0x5A#8 && t.seq.tLive) = true := by
  decide
theorem test_rd16 :
    nextWith (exec (.rd16 0x02#7) (oracleState true [(0x12#8, 0x34#8)]))
      (fun t => events t == [.writeThenRead 0x02#8 2 [0x12#8, 0x34#8]] && t.seq.r == 0x1234#16) = true := by
  decide
theorem test_wr8 :
    nextWith (exec (.wr8 0x02#7 0x77#8) (oracleState true [(0#8, 0#8)]))
      (fun t => events t == [.write 0x82#8 0x77#8] && t.port.tW0 == 0x82#8 && !t.seq.tLive) = true := by decide
theorem test_initTransport :
    nextWith (exec .initTransport (oracleState true [(0#8, 0#8)]))
      (fun t => events t == [.init] && t.env.transport == .ready && t.port.tRlen == 0#2) = true := by decide
theorem test_frameRdConfig :
    nextWith (exec .frameRdConfig (oracleState true [(0xD1#8, 0#8)]))
      (fun t => events t == [.writeThenRead 0x00#8 1 [0xD1#8]] && t.seq.t == 0xD1#8 && t.seq.tLive) = true := by
  decide
theorem test_frameRdFault :
    nextWith (exec .frameRdFault (oracleState true [(0x84#8, 0#8)]))
      (fun t => events t == [.writeThenRead 0x07#8 1 [0x84#8]] && t.seq.t == 0x84#8 && t.seq.tLive) = true := by
  decide
theorem test_frameRdRtd :
    nextWith (exec .frameRdRtd (oracleState true [(0xC8#8, 0x01#8)]))
      (fun t => events t == [.writeThenRead 0x01#8 2 [0xC8#8, 0x01#8]] && t.seq.r == 0xC801#16) = true := by
  decide
theorem test_frameRdHthr :
    nextWith (exec .frameRdHthr (oracleState true [(0xAB#8, 0xCD#8)]))
      (fun t => events t == [.writeThenRead 0x03#8 2 [0xAB#8, 0xCD#8]] && t.seq.r == 0xABCD#16) = true := by
  decide
theorem test_frameRdLthr :
    nextWith (exec .frameRdLthr (oracleState true [(0x12#8, 0x34#8)]))
      (fun t => events t == [.writeThenRead 0x05#8 2 [0x12#8, 0x34#8]] && t.seq.r == 0x1234#16) = true := by
  decide
theorem test_frameWrConfig :
    nextWith (exec (.frameWrConfig 0x91#8) (oracleState true [(0#8, 0#8)]))
      (fun t => events t == [.write 0x80#8 0x91#8] && t.port.tW0 == 0x80#8 && !t.seq.tLive) = true := by decide
theorem test_frameWrHthrMsb :
    nextWith (exec (.frameWrHthrMsb 0xAB#8) (oracleState true [(0#8, 0#8)]))
      (fun t => events t == [.write 0x83#8 0xAB#8] && t.port.tW0 == 0x83#8 && !t.seq.tLive) = true := by decide
theorem test_frameWrHthrLsb :
    nextWith (exec (.frameWrHthrLsb 0xCD#8) (oracleState true [(0#8, 0#8)]))
      (fun t => events t == [.write 0x84#8 0xCD#8] && t.port.tW0 == 0x84#8 && !t.seq.tLive) = true := by decide
theorem test_frameWrLthrMsb :
    nextWith (exec (.frameWrLthrMsb 0x12#8) (oracleState true [(0#8, 0#8)]))
      (fun t => events t == [.write 0x85#8 0x12#8] && t.port.tW0 == 0x85#8 && !t.seq.tLive) = true := by decide
theorem test_frameWrLthrLsb :
    nextWith (exec (.frameWrLthrLsb 0x34#8) (oracleState true [(0#8, 0#8)]))
      (fun t => events t == [.write 0x86#8 0x34#8] && t.port.tW0 == 0x86#8 && !t.seq.tLive) = true := by decide

/-- `DLY` at its last edge: TMR 1, one tick, then the micro-step ends (R101). -/
theorem test_delay_last_edge :
    ((delayEdge 10 { State.reset with seq := { Seq.reset with busy := true, tmr := 1 } }).seq.tmr,
      (delayEdge 10 { State.reset with seq := { Seq.reset with busy := true, tmr := 1 } }).seq.upc) = (0, 1#4) := by
  decide

/-- `now` counts from the reset, and a conversion in progress keeps its distance (R9, R152). -/
theorem test_reset_restarts_time :
    nextWith (step { refState true 0x20#8 0x00#8 with
      rst := true
      env := { (refState true 0x20#8 0x00#8).env with now := 100, pending := some (130, 0xC801#16) } })
      (fun t => t.env.now == 0 && t.env.pending == some (30, 0xC801#16)
        && t.env.mem == (refState true 0x20#8 0x00#8).env.mem) = true := by
  decide

/-- A reset drops an unanswered handshake with its answer, so the next INIT is answered (R156). -/
theorem test_reset_drops_handshake :
    nextWith (step { State.reset with
      rst := true, seq := { Seq.reset with busy := true }, port := { TPort.reset with tReq := true }
      env := { Env.start with answers := [⟨none, 0#8, 0#8⟩, ⟨some 3, 0#8, 0#8⟩] } })
      (fun t => (t.env.answerAt 0).duration == some 3 && t.env.transport == .dropped && !t.seq.busy) = true := by
  decide

/-! ## Layouts (95 section 2.2) -/

theorem test_configReg :
    nextWith (exec (.configReg 0xD1#8) State.reset)
      (fun t => t.codecOut == .config ⟨true, true, false, true, 0#2, false, true⟩) = true := by decide
theorem test_faultReg :
    nextWith (exec (.faultReg 0x48#8) State.reset)
      (fun t => t.codecOut == .fault ⟨false, true, false, false, true, false, 0x00#8⟩) = true := by decide
theorem test_faultReg_unassigned :
    nextWith (exec (.faultReg 0x03#8) State.reset)
      (fun t => t.codecOut == .fault ⟨false, false, false, false, false, false, 0x03#8⟩) = true := by decide
theorem test_rtdWord :
    nextWith (exec (.rtdWord 0xC801#16) State.reset) (fun t => t.codecOut == .rtd 0x6400#16 true) = true := by decide
theorem test_rtdWord_logical :
    nextWith (exec (.rtdWord 0x8000#16) State.reset) (fun t => t.codecOut == .rtd 0x4000#16 false) = true := by decide
theorem test_thresholdWord :
    nextWith (exec (.thresholdWord 0xABCD#16) State.reset)
      (fun t => t.codecOut == .threshold 0xCD#8 0xAB#8) = true := by decide

/-! ## Witnesses: the hypotheses of each statement are met together -/

/-- A block ready in front of an oracle that answers thirteen operations. -/
def readyO (bno : Bool) : State := oracleState bno (List.replicate 13 (0x5A#8, 0xC3#8))

/-- A block ready in front of an initialised ENV-REF. -/
def readyR : State := refState true 0x51#8 0x48#8

theorem returns_of_decide {e : Env} {n : Nat}
    (h : (List.range n).all (fun k => (e.answerAt k).duration.isSome) = true) : e.returns n := by
  intro k hk
  exact List.all_eq_true.mp h k (List.mem_range.mpr hk)

/-- A block in the middle of READ_RTD, about to write T back with the bias bit: index 2. -/
def midRead : State :=
  { readyO true with
    seq := { Seq.reset with busy := true, op := 0x01#8, upc := 2#4, t := 0x11#8, tLive := true } }

/-- The same in the middle of its delay, index 3, with the timer running. -/
def midDelay : State :=
  { readyO true with
    seq := { Seq.reset with
      busy := true, op := 0x01#8, upc := 3#4, t := 0x11#8, tLive := true, tmr := 7, phase := .biasing } }

theorem midRead_inv : Inv midRead := by
  refine ⟨⟨nofun, fun _ => ⟨⟨_, rfl, rfl,
    fun h => absurd rfl h, nofun⟩, by decide, by decide, nofun⟩⟩, by decide⟩

theorem midDelay_inv : Inv midDelay := by
  refine ⟨⟨nofun, fun _ => ⟨⟨_, rfl, rfl,
    fun _ => ⟨10000, rfl, by decide⟩, nofun⟩, by decide, by decide, nofun⟩⟩, by decide⟩

theorem readyO_ready (bno : Bool) : ReadyOracle (readyO bno) := ⟨rfl, rfl, rfl, rfl⟩

theorem readyR_ready : ReadyRef readyR := ⟨rfl, rfl, rfl, rfl, rfl, rfl, rfl, by decide, by decide⟩

theorem readyO_returns (bno : Bool) : (readyO bno).env.returns 13 := returns_of_decide (by cases bno <;> decide)

theorem readyR_returns : readyR.env.returns 13 := returns_of_decide (by decide)

theorem returns_fewer {e : Env} {n m : Nat} (h : e.returns n) (hm : m ≤ n) : e.returns m :=
  fun k hk => h k (Nat.lt_of_lt_of_le hk hm)

/-- A block in front of a transport that never answers. -/
def silent : State :=
  { State.reset with env := { Env.start with answers := [⟨none, 0#8, 0#8⟩] } }

/-- An initialised ENV-REF whose transport never answers, with a conversion pending far ahead. -/
def silentR : State :=
  { silent with
    env := { silent.env with kind := .envRef, transport := .ready, pending := some (1000000, 0x1234#16) } }

/-- ENV-REF with a conversion pending far ahead. -/
def pendingR : State := { readyR with env := { readyR.env with pending := some (1000000, 0x1234#16) } }

/-- ENV-REF before any `Init`. -/
def rawR : State := { readyR with env := { readyR.env with transport := .uninitialised } }

/-- READ_RTD about to make its first frame, ENV-REF uninitialised: the one fault there is. -/
def rawRead : State := { rawR with seq := { Seq.reset with busy := true, op := 0x01#8, upc := 1#4 } }

theorem rawRead_inv : Inv rawRead := by
  refine ⟨⟨nofun, fun _ => ⟨⟨_, rfl, rfl,
    fun h => absurd rfl h, nofun⟩, by decide, by decide, nofun⟩⟩, by decide⟩

/-- The same bytes as `readyO true`, at another time and slower. -/
def slowO : State :=
  { readyO true with
    env := { (readyO true).env with now := 99, answers := List.replicate 13 ⟨some 400, 0x5A#8, 0xC3#8⟩ } }

/-- The edge grain in the middle of a delay. -/
def edgeDelay : State := { midDelay with grain := .edge }

theorem edgeDelay_inv : Inv edgeDelay := midDelay_inv

theorem witness_EncodeThenDecode :
    (Instr.rd8 0x02#7).wellFormed = true ∧ (Instr.wr8 0x7F#7 0xFF#8).wellFormed = true := by decide

theorem witness_OpcodesNameTheCommands :
    ∃ w : Fin 16 → CmdWord,
      (w 0).extractLsb' 32 8 = 0x00#8 ∧ (w 0).extractLsb' 16 2 = 0#2
      ∧ (w 1).extractLsb' 32 8 = 0x00#8 ∧ (w 1).extractLsb' 16 2 = 1#2
      ∧ (w 2).extractLsb' 32 8 = 0x00#8 ∧ (w 2).extractLsb' 16 2 = 2#2
      ∧ (w 14).extractLsb' 32 8 = 0x00#8 ∧ (w 14).extractLsb' 16 2 = 3#2
      ∧ (w 15).extractLsb' 32 8 = 0x06#8 ∧ (w 15).extractLsb' 16 2 = 3#2
      ∧ (w 3).extractLsb' 32 8 = 0x01#8 ∧ (w 4).extractLsb' 32 8 = 0x02#8 ∧ (w 5).extractLsb' 32 8 = 0x03#8
      ∧ (w 6).extractLsb' 32 8 = 0x04#8 ∧ (w 7).extractLsb' 32 8 = 0x05#8
      ∧ (w 8).extractLsb' 32 8 = 0x06#8 ∧ (w 8).extractLsb' 16 2 = 0#2
      ∧ (w 9).extractLsb' 32 8 = 0x06#8 ∧ (w 9).extractLsb' 16 2 = 1#2
      ∧ (w 10).extractLsb' 32 8 = 0x06#8 ∧ (w 10).extractLsb' 16 2 = 2#2
      ∧ (w 11).extractLsb' 32 8 = 0x07#8 ∧ (w 12).extractLsb' 32 8 = 0x08#8
      ∧ (w 13).extractLsb' 32 8 = 0x09#8 := 
  ⟨fun k => [0x00FFFCFFFF#40, 0x0000010000#40, 0x00FFFE0000#40, 0x01FFFFFFFF#40, 0x0200000000#40, 0x0300000000#40,
      0x0400010000#40, 0x05FFFE0000#40, 0x0600000000#40, 0x0600010000#40, 0x06FFFEFFFF#40, 0x07FFFF0000#40,
      0x0800000000#40, 0x0900000000#40, 0x000003FFFF#40, 0x0600030000#40][k.val]!, by decide⟩

theorem witness_ConfigurationCodecRoundTrip :
    (Config.defaults true).wf = true := by decide

theorem witness_FaultCodecRoundTrip :
    (Config.defaults false).wf = true := by decide

theorem witness_AddressBytesCarryTheMark :
    (0x00#8 : Byte).toNat < 0x80 ∧ (0x7F#8 : Byte).toNat < 0x80 := by decide

theorem witness_ConfigLayoutShowsItsFields :
    State.reset.cfg.wf = true ∧ 0 < lowbit State.reset.cfg.mFcycle ∧ 1 < lowbit State.reset.cfg.mFcycle := by decide

theorem witness_StepRunsTheDecodedInstruction :
    ∃ s1 s2 s3 : State,
      (s1.rst = false ∧ s1.codecIn = some (.rtd, 0xFFFF#16) ∧ decode (.codec .rtd 0xFFFF#16) = .ok (.rtdWord 0xFFFF#16))
      ∧ (s2.rst = false ∧ s2.codecIn = none ∧ s2.port.tReq = true ∧ decode s2.port.word = .ok (.wr8 0x7F#7 0xFF#8))
      ∧ (s3.rst = false ∧ s3.codecIn = none ∧ s3.port.tReq = false ∧ s3.seq.busy = false ∧ s3.grain = .command
        ∧ s3.host = [.present 0xFFFFFFFFFF#40]) := 
  ⟨place (.codec .rtd 0xFFFF#16) State.reset, place (.tport 1#2 0xFF#8 0xFF#8 0#2) State.reset,
    place (.cmd 0xFFFFFFFFFF#40) State.reset, by decide⟩

theorem witness_PlacedWordRunsNext :
    (Instr.illegalOp80FF 127#7 0xFFFF#16 0xFFFF#16).wellFormed = true
      ∧ commandFields (.illegalOp80FF 127#7 0xFFFF#16 0xFFFF#16) = some (0xFF#8, 0xFFFF#16, 0xFFFF#16)
      ∧ (Instr.rd16 0x00#7).wellFormed = true ∧ commandFields (.rd16 0x00#7) = none := by decide

theorem witness_AcceptanceLatchesTheWord :
    ∃ s : State, s.rst = false ∧ s.codecIn = none ∧ s.port.tReq = false ∧ s.seq.busy = false
      ∧ s.grain ≠ .command ∧ s.host = [.present 0x071234ABCD#40] := 
  ⟨{ State.reset with grain := .edge, host := [.present 0x071234ABCD#40] }, by decide⟩

theorem witness_BusyBlockTakesNoCommand :
    midRead.seq.busy = true ∧ (∃ t, step midRead = .next t)
      ∧ commandFields (.readFault 0#16 0#16) = some (0x02#8, 0#16, 0#16) := 
  ⟨rfl, exists_next (by decide), by decide⟩

theorem witness_ResetWinsAndClears :
    ∃ s u : State, s.rst = true ∧ s.seq.busy = false ∧ s.port.tReq = false ∧ u.rst = true ∧ u.seq.busy = true := 
  ⟨{ readyR with rst := true }, { midRead with rst := true }, by decide⟩

theorem witness_ResetWhileBusyForgetsTheChip :
    ∃ s u v : State, (s.rst = true ∧ s.seq.busy = true ∧ s.port.tReq = false)
      ∧ (u.rst = true ∧ u.seq.busy = true ∧ u.port.tReq = true)
      ∧ v.rst = true ∧ v.seq.busy = false ∧ v.port.tReq = true := 
  ⟨{ midDelay with rst := true }, { midRead with rst := true, port := { TPort.reset with tReq := true } },
    { place (.tport 0#2 0#8 0#8 0#2) State.reset with rst := true }, by decide⟩

theorem witness_CommandWordsLoseNoBit :
    (0#8 : Byte).getLsbD 7 = false ∧ (0x80#8 : Byte).getLsbD 7 = true ∧ (1#2 : BitVec 2) ≠ 0#2
      ∧ (3#2 : BitVec 2) ≠ 1#2 ∧ (3#2 : BitVec 2) ≠ 2#2 ∧ (0x0100#16 : Word).extractLsb' 8 8 ≠ 0#8
      ∧ decode (.tport 2#2 0x00#8 0#8 0#2) = .error .badReadLength := by decide

theorem witness_IdleStepOnlyLetsTimePass :
    ∃ s u : State, (s.rst = false ∧ s.codecIn = none ∧ s.port.tReq = false ∧ s.seq.busy = false ∧ s.host = [])
      ∧ u.rst = false ∧ u.codecIn = none ∧ u.port.tReq = false ∧ u.seq.busy = false ∧ u.host = [.wait 10000] := 
  ⟨State.reset, { State.reset with host := [.wait 10000] }, by decide⟩

theorem witness_InitCompletes :
    (readyO true).env.kind = .oracle ∧ ((readyO true).env.answerAt 0).duration = some 16 := by decide

theorem witness_ReadByteCompletes :
    read1Addr .frameRdConfig = some 0x00#8 ∧ read1Addr .frameRdFault = some 0x07#8 ∧ read1Addr (.rd8 0x7F#7) = some 0x7F#8
      ∧ midRead.env.kind = .oracle ∧ (midRead.env.answerAt 0).duration = some 16 := by decide

theorem witness_ReadWordCompletes :
    read2Addr .frameRdRtd = some 0x01#8 ∧ read2Addr .frameRdHthr = some 0x03#8 ∧ read2Addr .frameRdLthr = some 0x05#8
      ∧ read2Addr (.rd16 0x7F#7) = some 0x7F#8 ∧ (readyO true).env.kind = .oracle
      ∧ ((readyO true).env.answerAt 0).duration = some 16 := by decide

theorem witness_WriteByteCompletes :
    writeAddr (.frameWrConfig 0xFF#8) = some (0x00#8, 0xFF#8) ∧ writeAddr (.frameWrHthrMsb 0x00#8) = some (0x03#8, 0x00#8)
      ∧ writeAddr (.frameWrHthrLsb 0x00#8) = some (0x04#8, 0x00#8) ∧ writeAddr (.frameWrLthrMsb 0x00#8) = some (0x05#8, 0x00#8)
      ∧ writeAddr (.frameWrLthrLsb 0x00#8) = some (0x06#8, 0x00#8) ∧ writeAddr (.wr8 0x7F#7 0x00#8) = some (0x7F#8, 0x00#8)
      ∧ midRead.env.kind = .oracle ∧ (midRead.env.answerAt 0).duration = some 16 := by decide

theorem witness_UnansweredFrameHangs :
    (silent.env.answerAt 0).duration = none ∧ silent.env.kind = .oracle ∧ (Instr.rd8 0x01#7).wellFormed = true
      ∧ (read1Addr (.rd8 0x01#7)).isSome = true ∧ (read2Addr .frameRdRtd).isSome = true
      ∧ (writeAddr (.wr8 0x07#7 0x00#8)).isSome = true ∧ Instr.initTransport.wellFormed = true
      ∧ Instr.frameRdRtd.wellFormed = true ∧ (Instr.wr8 0x07#7 0x00#8).wellFormed = true := by decide

theorem witness_UnansweredFrameHangs_envRef :
    (silentR.env.answerAt 0).duration = none ∧ silentR.env.kind = .envRef ∧ silentR.env.transport = .ready
      ∧ read1Addr .frameRdFault = some 0x07#8 ∧ (0x07#8 : Byte).toNat ≤ 0x07
      ∧ read1Addr (.rd8 0x08#7) = some 0x08#8 ∧ 0x07 < (0x08#8 : Byte).toNat
      ∧ read2Addr (.rd16 0x06#7) = some 0x06#8 ∧ (0x06#8 : Byte).toNat + 1 ≤ 0x07
      ∧ read2Addr (.rd16 0x07#7) = some 0x07#8 ∧ 0x07 < (0x07#8 : Byte).toNat + 1
      ∧ writeAddr (.frameWrLthrLsb 0xFF#8) = some (0x06#8, 0xFF#8) ∧ (0x06#8 : Byte) ≠ silentR.cfg.aConfig
      ∧ isThresholdAddr silentR.cfg 0x06#8 = true
      ∧ writeAddr (.wr8 0x08#7 0xFF#8) = some (0x08#8, 0xFF#8) ∧ 0x07 < (0x08#8 : Byte).toNat
      ∧ writeAddr (.wr8 0x07#7 0xFF#8) = some (0x07#8, 0xFF#8) ∧ (0x07#8 : Byte) ≠ silentR.cfg.aConfig
      ∧ isThresholdAddr silentR.cfg 0x07#8 = false
      ∧ writeAddr (.frameWrConfig 0xDF#8) = some (silentR.cfg.aConfig, 0xDF#8)
      ∧ (0xDF#8 : Byte) &&& silentR.cfg.m1Shot = 0#8 ∧ (0x20#8 : Byte) &&& silentR.cfg.m1Shot ≠ 0#8
      ∧ ((silentR.env.injectNext silentR.cfg).settle silentR.cfg silentR.env.now).pending ≠ none := by decide

theorem witness_SettlingCompletesTheConversion :
    ∃ e : Env, (Config.defaults true).refMapOk = true ∧ e.pending = some (100, 0xC801#16) ∧ 100 ≤ 100 ∧ 99 < 100 := 
  ⟨{ readyR.env with pending := some (100, 0xC801#16) }, by decide⟩

theorem witness_EnvRefServesReads :
    readyR.env.kind = .envRef ∧ readyR.env.transport = .ready ∧ (readyR.env.answerAt 0).duration = some 16
      ∧ read1Addr .frameRdFault = some 0x07#8 ∧ (0x07#8 : Byte).toNat ≤ 0x07
      ∧ read1Addr (.rd8 0x08#7) = some 0x08#8 ∧ 0x07 < (0x08#8 : Byte).toNat
      ∧ read2Addr (.rd16 0x06#7) = some 0x06#8 ∧ (0x06#8 : Byte).toNat + 1 ≤ 0x07
      ∧ read2Addr (.rd16 0x07#7) = some 0x07#8 ∧ 0x07 < (0x07#8 : Byte).toNat + 1 := by decide

theorem witness_EnvRefConfigurationWrite :
    (writeAddr (.frameWrConfig 0x20#8) = some (readyR.cfg.aConfig, 0x20#8) ∧ readyR.cfg.wf = true
        ∧ readyR.cfg.refMapOk = true ∧ readyR.env.kind = .envRef ∧ readyR.env.transport = .ready
        ∧ (readyR.env.answerAt 0).duration = some 16 ∧ (0x20#8 : Byte) &&& readyR.cfg.m1Shot ≠ 0#8
        ∧ ((readyR.env.injectNext readyR.cfg).settle readyR.cfg readyR.env.now).pending = none)
      ∧ (pendingR.cfg.wf = true ∧ pendingR.cfg.refMapOk = true ∧ pendingR.env.kind = .envRef
        ∧ pendingR.env.transport = .ready ∧ (pendingR.env.answerAt 0).duration = some 16
        ∧ ((pendingR.env.injectNext pendingR.cfg).settle pendingR.cfg pendingR.env.now).pending ≠ none)
      ∧ writeAddr (.frameWrConfig 0x9F#8) = some (readyR.cfg.aConfig, 0x9F#8)
      ∧ (0x9F#8 : Byte) &&& readyR.cfg.m1Shot = 0#8 ∧ (0x9F#8 : Byte) &&& readyR.cfg.mFclr ≠ 0#8
      ∧ (0x20#8 : Byte) &&& readyR.cfg.mFclr = 0#8 := by decide

theorem witness_EnvRefOtherWrites :
    readyR.cfg.wf = true ∧ readyR.cfg.refMapOk = true ∧ readyR.env.kind = .envRef ∧ readyR.env.transport = .ready
      ∧ (readyR.env.answerAt 0).duration = some 16
      ∧ writeAddr (.frameWrHthrMsb 0xFF#8) = some (readyR.cfg.aHthrMsb, 0xFF#8) ∧ readyR.cfg.aHthrMsb ≠ readyR.cfg.aConfig
      ∧ writeAddr (.frameWrLthrLsb 0xFF#8) = some (readyR.cfg.aLthrLsb, 0xFF#8) ∧ readyR.cfg.aLthrLsb ≠ readyR.cfg.aConfig
      ∧ writeAddr (.wr8 0x07#7 0x00#8) = some (0x07#8, 0x00#8) ∧ (0x07#8 : Byte) ≠ readyR.cfg.aConfig
      ∧ (0x07#8 : Byte) ≠ readyR.cfg.aLthrLsb ∧ (0x07#8 : Byte) ≠ readyR.cfg.aLthrMsb
      ∧ (0x07#8 : Byte) ≠ readyR.cfg.aHthrLsb ∧ (0x07#8 : Byte) ≠ readyR.cfg.aHthrMsb := by decide

theorem witness_UninitialisedTransportFaults :
    (∃ s u : State, (s.env.kind = .envRef ∧ s.env.transport = .dropped)
        ∧ u.env.kind = .envRef ∧ u.env.transport = .uninitialised ∧ (u.env.answerAt 0).duration = none)
      ∧ rawR.env.kind = .envRef ∧ (rawR.env.answerAt 0).duration = some 16 ∧ rawR.env.transport = .uninitialised
      ∧ (read1Addr .frameRdConfig).isSome = true ∧ (read2Addr (.rd16 0x00#7)).isSome = true
      ∧ (writeAddr (.frameWrConfig 0#8)).isSome = true := 
  ⟨⟨{ readyR with env := { readyR.env with transport := .dropped } },
    { silent with env := { silent.env with kind := .envRef } }, by decide⟩, by decide⟩

theorem witness_BeginCompletes :
    ReadyOracle (readyO true) ∧ (readyO true).env.returns 13 := 
  ⟨readyO_ready true, readyO_returns true⟩

theorem witness_SetWiresCompletes :
    ReadyOracle (readyO true) ∧ (readyO true).env.returns 2 := 
  ⟨readyO_ready true, returns_fewer (readyO_returns true) (by decide)⟩

theorem witness_EnableBiasCompletes :
    ReadyOracle (readyO true) ∧ (readyO true).env.returns 2 := 
  ⟨readyO_ready true, returns_fewer (readyO_returns true) (by decide)⟩

theorem witness_AutoConvertCompletes :
    ReadyOracle (readyO true) ∧ (readyO true).env.returns 2 := 
  ⟨readyO_ready true, returns_fewer (readyO_returns true) (by decide)⟩

theorem witness_SetThresholdsCompletes :
    ReadyOracle (readyO true) ∧ (readyO true).env.returns 4 := 
  ⟨readyO_ready true, returns_fewer (readyO_returns true) (by decide)⟩

theorem witness_GetThresholdsComplete :
    ReadyOracle (readyO true) ∧ (readyO true).env.returns 1 := 
  ⟨readyO_ready true, returns_fewer (readyO_returns true) (by decide)⟩

theorem witness_ReadFaultCompletes :
    ReadyOracle (readyO true) ∧ (readyO true).env.returns 1 := 
  ⟨readyO_ready true, returns_fewer (readyO_returns true) (by decide)⟩

theorem witness_ClearFaultCompletes :
    ReadyOracle (readyO true) ∧ (readyO true).env.returns 2 := 
  ⟨readyO_ready true, returns_fewer (readyO_returns true) (by decide)⟩

theorem witness_ReadRtdCompletes :
    (ReadyOracle (readyO true) ∧ (readyO true).env.returns 7 ∧ (readyO true).cfg.biasNormallyOff = true)
      ∧ ReadyOracle (readyO false) ∧ (readyO false).env.returns 3 ∧ (readyO false).cfg.biasNormallyOff = false := 
  ⟨⟨readyO_ready true, returns_fewer (readyO_returns true) (by decide), rfl⟩, readyO_ready false,
    returns_fewer (readyO_returns false) (by decide), rfl⟩

theorem witness_IllegalWordIsAnswered :
    isIllegal (.illegalBeginMode3 0#14 0#16) = true
      ∧ commandFields (.illegalBeginMode3 0#14 0#16) = some (0x00#8, 0x0003#16, 0#16)
      ∧ isIllegal (.illegalOp80FF 127#7 0#16 0#16) = true
      ∧ commandFields (.illegalOp80FF 127#7 0#16 0#16) = some (0xFF#8, 0#16, 0#16)
      ∧ silent.seq.busy = false ∧ silent.port.tReq = false := by decide

theorem witness_SettersAlterOnlyTheirField :
    ReadyOracle (readyO true) ∧ (readyO true).env.returns 2
      ∧ (∃ on x y, Instr.enableBias true 0#15 0#16 = .enableBias on x y ∧ (0x80#8 : Byte) = (readyO true).cfg.mBias ∧ true = on)
      ∧ (∃ on x y, Instr.autoConvert false 0#15 0#16 = .autoConvert on x y ∧ (0x40#8 : Byte) = (readyO true).cfg.mAuto
        ∧ false = on)
      ∧ ∃ mode x y, Instr.setWires .four 0#14 0#16 = .setWires mode x y ∧ (0x10#8 : Byte) = (readyO true).cfg.m3Wire
        ∧ false = (mode == .three) := 
  ⟨readyO_ready true, returns_fewer (readyO_returns true) (by decide), ⟨_, _, _, rfl, rfl, rfl⟩,
    ⟨_, _, _, rfl, rfl, rfl⟩, _, _, _, rfl, rfl, rfl⟩

theorem witness_ThresholdRoundTrip :
    ReadyRef readyR ∧ readyR.env.returns 6 := 
  ⟨readyR_ready, returns_fewer readyR_returns (by decide)⟩

theorem witness_ConfigurationRoundTrip :
    (ReadyRef readyR ∧ readyR.env.returns 2 ∧ readyR.env.creg readyR.cfg.aConfig &&& readyR.cfg.mFclr = 0#8
        ∧ readyR.env.creg readyR.cfg.aConfig &&& readyR.cfg.m1Shot = 0#8)
      ∧ (∃ on x y, Instr.enableBias true 0#15 0#16 = .enableBias on x y ∧ (0x80#8 : Byte) = readyR.cfg.mBias ∧ true = on)
      ∧ (∃ on x y, Instr.autoConvert false 0#15 0#16 = .autoConvert on x y ∧ (0x40#8 : Byte) = readyR.cfg.mAuto ∧ false = on)
      ∧ ∃ mode x y, Instr.setWires .three 0#14 0#16 = .setWires mode x y ∧ (0x10#8 : Byte) = readyR.cfg.m3Wire
        ∧ true = (mode == .three) := 
  ⟨⟨readyR_ready, returns_fewer readyR_returns (by decide), by decide, by decide⟩, ⟨_, _, _, rfl, rfl, rfl⟩,
    ⟨_, _, _, rfl, rfl, rfl⟩, _, _, _, rfl, rfl, rfl⟩

theorem witness_FaultClearIsIdempotent :
    ReadyRef readyR ∧ readyR.env.returns 3 ∧ readyR.cfg.clearMaskPreserves = true := 
  ⟨readyR_ready, returns_fewer readyR_returns (by decide), by decide⟩

theorem witness_BeginLeavesTheSafeDefault :
    rawR.seq.busy = false ∧ rawR.port.tReq = false ∧ rawR.seq.tmr = 0 ∧ rawR.env.kind = .envRef ∧ rawR.env.pending = none
      ∧ rawR.env.injections = [] ∧ rawR.cfg.wf = true ∧ rawR.cfg.refMapOk = true ∧ rawR.cfg.clearMaskPreserves = true
      ∧ rawR.env.returns 13 ∧ rawR.env.creg rawR.cfg.aConfig &&& rawR.cfg.m1Shot = 0#8 := 
  ⟨rfl, rfl, rfl, rfl, rfl, rfl, by decide, by decide, by decide, returns_of_decide (by decide), by decide⟩

theorem witness_ReadRtdReadsAValidResult :
    ReadyRef readyR ∧ readyR.env.returns 7 ∧ readyR.cfg.biasNormallyOff = true
      ∧ readyR.env.creg readyR.cfg.aConfig &&& readyR.cfg.m1Shot = 0#8
      ∧ (∀ b, readyR.env.ghost.biasOn = some b → b ≤ (readyR.env.now : Int))
      ∧ readyR.env.conversions = [(52000, 0xC801#16)] := 
  ⟨readyR_ready, returns_fewer readyR_returns (by decide), rfl, by decide, nofun, rfl⟩

theorem witness_CommandsBeforeBeginFault :
    isCommand (.readRtd 0#16 0#16) = true ∧ (∀ mode x y, Instr.readRtd 0#16 0#16 ≠ .beginCmd mode x y)
      ∧ rawR.seq.busy = false ∧ rawR.port.tReq = false ∧ rawR.env.kind = .envRef
      ∧ rawR.env.transport = .uninitialised := ⟨rfl, nofun, rfl, rfl, rfl, rfl⟩

theorem witness_ReadRtdKeepsTheDelays :
    (∃ t, (readyO true).seq.busy = false ∧ (readyO true).port.tReq = false ∧ (readyO true).seq.tmr = 0
        ∧ exec (.readRtd 0#16 0#16) (readyO true) = .next t ∧ t.seq.busy = false
        ∧ (readyO true).cfg.biasNormallyOff = true)
      ∧ ∃ t, (readyO false).seq.busy = false ∧ (readyO false).port.tReq = false ∧ (readyO false).seq.tmr = 0
        ∧ exec (.readRtd 0#16 0#16) (readyO false) = .next t ∧ t.seq.busy = false
        ∧ (readyO false).cfg.biasNormallyOff = false := 
  ⟨⟨_, rfl, rfl, rfl, rfl, by decide, rfl⟩, _, rfl, rfl, rfl, rfl, by decide, rfl⟩

theorem witness_DelayLastsItsTicks :
    1 ≤ 1 ∧ State.reset.seq.tmr = 0
      ∧ 1 < ({ midDelay with seq := { midDelay.seq with tmr := 2 } } : State).seq.tmr
      ∧ ({ midDelay with seq := { midDelay.seq with tmr := 1 } } : State).seq.tmr = 1 := by decide

theorem witness_StepKeepsTheInvariant :
    (Inv midRead ∧ ∃ t, step midRead = .next t) ∧ Inv midDelay ∧ ∃ t, step midDelay = .next t := 
  ⟨⟨midRead_inv, exists_next (by decide)⟩, midDelay_inv, exists_next (by decide)⟩

theorem witness_StepKeepsMemoryCanonical :
    Memory.wf readyR.env.mem = true ∧ ∃ t, step (place (.cmd 0x071234ABCD#40) readyR) = .next t := ⟨by decide, exists_next (by decide)⟩

theorem witness_OnlyTheTransportFaults :
    Inv rawRead ∧ ∃ f, step rawRead = .fault f := 
  ⟨rawRead_inv, .transportNotInitialised, exists_fault (by decide)⟩

theorem witness_OracleNeverStopsTheBlock :
    Inv midDelay ∧ midDelay.env.kind = .oracle ∧ midDelay.codecIn = none := ⟨midDelay_inv, rfl, rfl⟩

theorem witness_StepKeepsParametersAndHistory :
    (∃ t, midRead.rst = false ∧ step midRead = .next t) ∧ ∃ s t : State, s.rst = true ∧ step s = .next t := 
  ⟨(exists_next (by decide)).imp fun _ h => ⟨rfl, h⟩, { midRead with rst := true },
    (exists_next (by decide)).imp fun _ h => ⟨rfl, h⟩⟩

theorem witness_CommandsEmitOnlyTheirFrames :
    isCommand (.clearFault 0#16 0#16) = true ∧ readyR.seq.busy = false ∧ readyR.port.tReq = false ∧ readyR.seq.tmr = 0
      ∧ ∃ t, exec (.clearFault 0#16 0#16) readyR = .next t := 
  ⟨rfl, rfl, rfl, rfl, exists_next (by decide)⟩

theorem witness_CommandsRespondOrHang :
    (isCommand (.readFault 0#16 0#16) = true ∧ readyR.seq.busy = false ∧ readyR.port.tReq = false
        ∧ ∃ t, exec (.readFault 0#16 0#16) readyR = .next t)
      ∧ silent.seq.busy = false ∧ silent.port.tReq = false ∧ ∃ t, exec (.readFault 0#16 0#16) silent = .next t := 
  ⟨⟨rfl, rfl, rfl, exists_next (by decide)⟩, rfl, rfl, exists_next (by decide)⟩

theorem witness_TransportTimingIsInvisible :
    isCommand (.readRtd 0#16 0#16) = true ∧ ReadyOracle (readyO true) ∧ ReadyOracle slowO
      ∧ (readyO true).env.returns 13 ∧ slowO.env.returns 13 ∧ (readyO true).cfg = slowO.cfg ∧ (readyO true).seq = slowO.seq
      ∧ (∀ k < 13, (readyO true).env.byte0 k = slowO.env.byte0 k ∧ (readyO true).env.byte1 k = slowO.env.byte1 k) := 
  ⟨rfl, readyO_ready true, ⟨rfl, rfl, rfl, rfl⟩, readyO_returns true, returns_of_decide (by decide), rfl, rfl, by decide⟩

theorem witness_EdgesRefineMicroSteps :
    Inv edgeDelay ∧ edgeDelay.grain = .edge ∧ edgeDelay.rst = false ∧ edgeDelay.codecIn = none
      ∧ edgeDelay.port.tReq = false ∧ edgeDelay.seq.busy = true ∧ ∃ t, microStep edgeDelay = .next t := 
  ⟨edgeDelay_inv, rfl, rfl, rfl, rfl, rfl, exists_next (by decide)⟩

theorem witness_MicroStepsRefineCommands :
    ∃ s : State, s.grain = .micro ∧ s.rst = false ∧ s.codecIn = none ∧ s.port.tReq = false ∧ s.seq.busy = false
      ∧ s.host = [.present 0x0300000000#40] ∧ ∃ t, exec (decodeCmd 0x0300000000#40) { s with host := [] } = .next t := 
  ⟨{ readyO true with grain := .micro, host := [.present 0x0300000000#40] }, rfl, rfl, rfl, rfl, rfl, rfl,
    exists_next (by decide)⟩

end Sys2Proof.Tests
end

section
/-! PROOF. ENV-REF's register space (spec/20_memory.md R54, R56, R57): what settling, a configuration write and
any other write do to the registers, the pending conversion and the transport. -/

namespace Sys2Proof.Machine

/-! ## What the checks of the configuration record give -/

/-- ENV-REF's registers are at 0x00 to 0x07 (R36). -/
theorem refMapOk_le {cfg : Config} (h : cfg.refMapOk = true) {a : Byte} (ha : a ∈ cfg.addresses) :
    a.toNat ≤ 0x07 := by
  simp only [Config.refMapOk, Bool.and_eq_true, List.all_eq_true, decide_eq_true_eq] at h
  exact h.1 a ha

/-- The configuration register shares its address with neither result byte nor the fault status, and the result
bytes are two registers. -/
theorem refMapOk_distinct {cfg : Config} (h : cfg.refMapOk = true) :
    cfg.aConfig ≠ cfg.aRtdMsb ∧ cfg.aConfig ≠ cfg.aRtdLsb ∧ cfg.aConfig ≠ cfg.aFault
      ∧ cfg.aRtdMsb ≠ cfg.aRtdLsb := by
  simp only [Config.refMapOk, Bool.and_eq_true, decide_eq_true_eq] at h
  have hp := h.2
  simp only [Config.addresses, List.pairwise_cons, List.mem_cons] at hp
  obtain ⟨hconfig, hmsb, -⟩ := hp
  exact ⟨hconfig _ (by simp), hconfig _ (by simp), hconfig _ (by simp), hmsb _ (by simp)⟩

/-- A conversion lasts at least one tick (R101). -/
theorem one_le_convTicks_of_wf {cfg : Config} (h : cfg.wf = true) : 1 ≤ cfg.convTicks := by
  simp only [Config.wf, Config.ticksOk, Bool.and_eq_true, decide_eq_true_eq] at h
  exact h.2.2

theorem hasBit_iff {c m : Byte} : hasBit c m = true ↔ c &&& m ≠ 0#8 := bne_iff_ne

theorem hasBit_eq_false_iff {c m : Byte} : hasBit c m = false ↔ c &&& m = 0#8 := bne_eq_false_iff_eq

/-! ## Settling -/

@[simp] theorem injectNext_transport (cfg : Config) (e : Env) : (e.injectNext cfg).transport = e.transport := by
  unfold Env.injectNext
  split <;> rfl

@[simp] theorem settle_transport (cfg : Config) (time : Nat) (e : Env) :
    (e.settle cfg time).transport = e.transport := by
  unfold Env.settle
  split
  · split <;> rfl
  · rfl

theorem settle_of_due {cfg : Config} {e : Env} {c time : Nat} {w : Word} (hp : e.pending = some (c, w))
    (h : c ≤ time) : e.settle cfg time = e.completeConversion cfg w := by
  simp [Env.settle, hp, h]

theorem settle_of_early {cfg : Config} {e : Env} {c time : Nat} {w : Word} (hp : e.pending = some (c, w))
    (h : time < c) : e.settle cfg time = e := by
  simp [Env.settle, hp, Nat.not_le.mpr h]

@[simp] theorem completeConversion_pending (cfg : Config) (w : Word) (e : Env) :
    (e.completeConversion cfg w).pending = none := rfl

/-- Every register after a conversion has completed: three writes one after another, of which the last reads the
configuration register before it writes it (R54). -/
theorem completeConversion_creg (cfg : Config) (w : Word) (e : Env) (k : Byte) :
    (e.completeConversion cfg w).creg k
      = if k = cfg.aConfig then
          cfgClr (((e.setCreg cfg.aRtdMsb (thrHi w)).setCreg cfg.aRtdLsb (thrLo w)).creg cfg.aConfig) cfg.m1Shot
        else if k = cfg.aRtdLsb then thrLo w
        else if k = cfg.aRtdMsb then thrHi w
        else e.creg k := by
  rw [← creg_setCreg e cfg.aRtdMsb k, ← creg_setCreg (e.setCreg cfg.aRtdMsb (thrHi w)) cfg.aRtdLsb k]
  exact creg_setCreg _ _ _ _

/-- Settles O26: a due conversion is three writes at three addresses that differ. -/
theorem settlingCompletesTheConversion : Obligations.SettlingCompletesTheConversion := by
  intro cfg e c time w hmap hp
  obtain ⟨hcm, hcl, -, hml⟩ := refMapOk_distinct hmap
  refine ⟨fun hdue => ?_, settle_of_early hp⟩
  rw [settle_of_due hp hdue]
  refine ⟨completeConversion_pending cfg w e, ?_, ?_, ?_, fun a hm hl hc => ?_⟩
  · simp [completeConversion_creg, hcm.symm, hml, thrHi]
  · simp [completeConversion_creg, hcl.symm, thrLo]
  · simp [completeConversion_creg, creg_setCreg, hcm, hcl, cfgClr]
  · simp [completeConversion_creg, hm, hl, hc]

/-! ## A configuration write -/

section ConfigWrite
variable (cfg : Config) (v : Byte) (ended : Nat) (e : Env)

@[simp] theorem noteConfigWrite_creg (k : Byte) : (e.noteConfigWrite cfg v ended).creg k = e.creg k := rfl
@[simp] theorem noteConfigWrite_transport : (e.noteConfigWrite cfg v ended).transport = e.transport := rfl
@[simp] theorem noteConfigWrite_pending : (e.noteConfigWrite cfg v ended).pending = e.pending := rfl

@[simp] theorem startConversion_creg (k : Byte) : (e.startConversion cfg ended).creg k = e.creg k := rfl
@[simp] theorem startConversion_transport : (e.startConversion cfg ended).transport = e.transport := rfl
@[simp] theorem startConversion_pending :
    (e.startConversion cfg ended).pending = some (ended + (e.conversion cfg).1, (e.conversion cfg).2) := rfl

theorem clearFaultStatus_creg (k : Byte) :
    (e.clearFaultStatus cfg v).creg k
      = if hasBit v cfg.mFclr = true ∧ k = cfg.aFault then 0x00#8 else e.creg k := by
  unfold Env.clearFaultStatus
  split <;> simp [creg_setCreg, *]

@[simp] theorem clearFaultStatus_transport : (e.clearFaultStatus cfg v).transport = e.transport := by
  unfold Env.clearFaultStatus
  split <;> rfl

@[simp] theorem clearFaultStatus_pending : (e.clearFaultStatus cfg v).pending = e.pending := by
  unfold Env.clearFaultStatus
  split <;> rfl

end ConfigWrite

/-- Every drawn duration is folded into 1 to CONV_TICKS (R56). -/
theorem foldConversionTicks_mem {cfg : Config} (h : 1 ≤ cfg.convTicks) (raw : Nat) :
    1 ≤ foldConversionTicks cfg raw ∧ foldConversionTicks cfg raw ≤ cfg.convTicks :=
  ⟨Nat.le_add_left 1 _, Nat.mod_lt _ h⟩

theorem conversion_ticks {cfg : Config} (h : 1 ≤ cfg.convTicks) (e : Env) :
    1 ≤ (e.conversion cfg).1 ∧ (e.conversion cfg).1 ≤ cfg.convTicks := by
  unfold Env.conversion
  split <;> exact foldConversionTicks_mem h _

/-- The byte stored is the byte written, and of a fault-clear write the byte without the clear bit and the
fault-cycle bits (R56). -/
theorem storedConfig_eq (cfg : Config) (v : Byte) :
    storedConfig cfg v = if v &&& cfg.mFclr = 0#8 then v else v &&& ~~~cfg.mFclr &&& ~~~cfg.mFcycle := by
  unfold storedConfig
  by_cases h : v &&& cfg.mFclr = 0#8
  · simp [hasBit_eq_false_iff.mpr h, h]
  · simp [hasBit_iff.mpr h, h, cfgClr]

/-- A 1-shot write while a conversion is pending is refused (R56). -/
theorem refWriteConfig_refused {cfg : Config} {v : Byte} {e : Env} (h1 : hasBit v cfg.m1Shot = true)
    (hp : e.pending ≠ none) (ended : Nat) :
    refWriteConfig cfg v ended e = .refused .envRefOneShotWhilePending := by
  simp [refWriteConfig, h1, Option.isSome_iff_ne_none.mpr hp]

/-- Every other configuration write is served (R56). -/
theorem refWriteConfig_served {cfg : Config} {v : Byte} {e : Env}
    (h : hasBit v cfg.m1Shot = false ∨ e.pending = none) (ended : Nat) :
    ∃ sv, refWriteConfig cfg v ended e = .next sv := by
  unfold refWriteConfig
  obtain h1 | hp := h
  · simp [h1]
  · simp only [hp, Option.isSome_none, Bool.false_eq_true, if_false]
    split <;> exact ⟨_, rfl⟩

section ConfigWriteServed
variable {cfg : Config} {v : Byte} {ended : Nat} {e : Env} {sv : Served}

/-- Every register after a served configuration write (R56). -/
theorem refWriteConfig_creg (h : refWriteConfig cfg v ended e = .next sv) (k : Byte) :
    sv.env.creg k
      = if k = cfg.aConfig then storedConfig cfg v
        else if hasBit v cfg.mFclr = true ∧ k = cfg.aFault then 0x00#8
        else e.creg k := by
  obtain ⟨-, -, he⟩ | ⟨-, he⟩ := refWriteConfig_next h <;>
    simp [he, creg_setCreg, clearFaultStatus_creg]

theorem refWriteConfig_transport (h : refWriteConfig cfg v ended e = .next sv) :
    sv.env.transport = e.transport := by
  obtain ⟨-, -, he⟩ | ⟨-, he⟩ := refWriteConfig_next h <;> simp [he]

/-- Without the 1-shot bit a configuration write leaves the pending conversion alone (R56). -/
theorem refWriteConfig_pending_keep (h : refWriteConfig cfg v ended e = .next sv)
    (h1 : hasBit v cfg.m1Shot = false) : sv.env.pending = e.pending := by
  obtain ⟨h1', -, -⟩ | ⟨-, he⟩ := refWriteConfig_next h
  · exact absurd h1' (by simp [h1])
  · simp [he]

/-- With the 1-shot bit it starts a conversion of 1 to CONV_TICKS ticks (R56). -/
theorem refWriteConfig_pending_start (h : refWriteConfig cfg v ended e = .next sv)
    (h1 : hasBit v cfg.m1Shot = true) (hc : 1 ≤ cfg.convTicks) :
    ∃ n w, 1 ≤ n ∧ n ≤ cfg.convTicks ∧ sv.env.pending = some (ended + n, w) := by
  obtain ⟨-, -, he⟩ | ⟨h1', -⟩ := refWriteConfig_next h
  · obtain ⟨hlo, hhi⟩ := conversion_ticks hc
      (((e.noteConfigWrite cfg v ended).clearFaultStatus cfg v).setCreg cfg.aConfig (storedConfig cfg v))
    exact ⟨_, _, hlo, hhi, by rw [he, startConversion_pending]⟩
  · exact absurd h1 (by simp [h1'])

end ConfigWriteServed

/-! ## A write, by its address -/

theorem refWrite_config {cfg : Config} (hmap : cfg.refMapOk = true) (v : Byte) (ended : Nat) (e : Env) :
    refWrite cfg cfg.aConfig v ended e = refWriteConfig cfg v ended e := by
  have hle : ¬ 0x07 < cfg.aConfig.toNat :=
    Nat.not_lt.mpr (refMapOk_le hmap (by simp [Config.addresses]))
  simp [refWrite, hle]

theorem isThresholdAddr_iff {cfg : Config} {a : Byte} :
    isThresholdAddr cfg a = true
      ↔ a = cfg.aLthrLsb ∨ a = cfg.aLthrMsb ∨ a = cfg.aHthrLsb ∨ a = cfg.aHthrMsb := by
  simp [isThresholdAddr, or_assoc]

/-- A threshold byte is stored (R57). -/
theorem refWrite_threshold {cfg : Config} {a : Byte} (hmap : cfg.refMapOk = true) (hc : a ≠ cfg.aConfig)
    (ha : isThresholdAddr cfg a = true) (v : Byte) (ended : Nat) (e : Env) :
    refWrite cfg a v ended e = .next ⟨e.setCreg a v, 0#8, 0#8⟩ := by
  have hmem : a ∈ cfg.addresses := by
    rcases isThresholdAddr_iff.mp ha with rfl | rfl | rfl | rfl <;> simp [Config.addresses]
  have hle : ¬ 0x07 < a.toNat := Nat.not_lt.mpr (refMapOk_le hmap hmem)
  simp [refWrite, hle, hc, ha]

/-- A write to neither the configuration register nor a threshold byte is refused, whether or not its address is
one of ENV-REF's (R57). -/
theorem refWrite_refused {cfg : Config} {a : Byte} (hc : a ≠ cfg.aConfig) (ha : isThresholdAddr cfg a = false)
    (v : Byte) (ended : Nat) (e : Env) : refWrite cfg a v ended e = .refused .envRefWriteAddress := by
  simp [refWrite, hc, ha]

/-! ## A write micro-operation in front of ENV-REF -/

/-- The address of a write, under every name it has, has bit 7 clear (R73). -/
theorem addrRd_of_writeAddr {i : Instr} {a v : Byte} (h : writeAddr i = some (a, v)) : addrRd a = a := by
  cases i with
  | wr8 b u => cases h; revert b; decide
  | frameWrConfig u | frameWrHthrMsb u | frameWrHthrLsb u | frameWrLthrMsb u | frameWrLthrLsb u => cases h; rfl
  | _ => cases h

/-- WR8 under each of its names is one write of the transport (R100). -/
theorem exec_of_writeAddr {i : Instr} {a v : Byte} (h : writeAddr i = some (a, v)) (s : State) :
    exec i s = transact (.write a v) s := by
  cases i with
  | wr8 b u => cases h; rfl
  | frameWrConfig u | frameWrHthrMsb u | frameWrHthrLsb u | frameWrLthrMsb u | frameWrLthrLsb u => cases h; rfl
  | _ => cases h

section Account
variable (f : Frame) (r0 r1 : Byte) (d : Nat) (e : Env)

@[simp] theorem account_creg (k : Byte) : (e.account f r0 r1 d).creg k = e.creg k := rfl
@[simp] theorem account_transport : (e.account f r0 r1 d).transport = e.transport := rfl
@[simp] theorem account_pending : (e.account f r0 r1 d).pending = e.pending := rfl

end Account

/-- What ENV-REF hands back for an operation is what the environment serves, once time has passed and the event
is recorded. -/
theorem serve_envRef_next {cfg : Config} {f : Frame} {ans : Answer} {d : Nat} {e : Env} {sv : Served}
    (hk : e.kind = .envRef) (h : refServe cfg f d e = .next sv) :
    serve cfg f ans d e = .next { sv with env := sv.env.account f sv.r0 sv.r1 d } := by
  simp [serve, hk, h]

theorem serve_envRef_refused {cfg : Config} {f : Frame} {ans : Answer} {d : Nat} {e : Env} {x : Refusal}
    (hk : e.kind = .envRef) (h : refServe cfg f d e = .refused x) : serve cfg f ans d e = .refused x := by
  simp [serve, hk, h]

section WriteInFrontOfEnvRef
variable {i : Instr} {a v : Byte} {s : State} (hi : writeAddr i = some (a, v))
  (hk : s.env.kind = .envRef) (ht : s.env.transport = .ready)
include hi ht

/-- What a ready ENV-REF makes of a write is what `refWrite` makes of it on the injected and settled chip
(R54, R59). -/
theorem refServe_write (d : Nat) :
    refServe s.cfg (.write a v) d s.env
      = refWrite s.cfg a v (s.env.now + d) ((s.env.injectNext s.cfg).settle s.cfg s.env.now) := by
  have hnow : ((s.env.injectNext s.cfg).settle s.cfg s.env.now).now = s.env.now :=
    ((injectNext_frame s.cfg s.env).trans (settle_frame s.cfg _ _)).now
  simp only [refServe, ht, refFrame, addrRd_of_writeAddr hi, hnow]

include hk

/-- A write ENV-REF refuses, whenever it ends, is refused. -/
theorem exec_write_refused {x : Refusal}
    (hw : ∀ ended, refWrite s.cfg a v ended ((s.env.injectNext s.cfg).settle s.cfg s.env.now) = .refused x) :
    exec i s = .refused x := by
  rw [exec_of_writeAddr hi]
  exact transact_refused fun d => serve_envRef_refused hk ((refServe_write hi ht d).trans (hw _))

/-- A write ENV-REF serves ends its micro-step, and the chip is the one `refWrite` hands back. -/
theorem exec_write_served {d : Nat} {sv : Served} (hd : (s.env.answerAt 0).duration = some d)
    (hw : refWrite s.cfg a v (s.env.now + d) ((s.env.injectNext s.cfg).settle s.cfg s.env.now) = .next sv) :
    ∃ t, exec i s = .next t
      ∧ t.seq = { s.seq with upc := s.seq.upc + 1#4, phase := s.seq.phaseNext s.cfg.biasNormallyOff }
      ∧ t.env.transport = sv.env.transport ∧ t.env.now = s.env.now + d
      ∧ t.env.pending = sv.env.pending ∧ ∀ k, t.env.creg k = sv.env.creg k := by
  have hs := serve_envRef_next (ans := s.env.answerAt 0) hk ((refServe_write hi ht d).trans hw)
  obtain ⟨-, hnow, -⟩ := serve_next hs
  rw [exec_of_writeAddr hi]
  exact ⟨_, transact_served hd hs, rfl, rfl, hnow, rfl, fun _ => rfl⟩

end WriteInFrontOfEnvRef

/-- Settles O28: the write at the configuration address is `refWriteConfig` on the injected and settled chip. -/
theorem envRefConfigurationWrite : Obligations.EnvRefConfigurationWrite := by
  intro i v s d hi hwf hmap hk ht hd
  obtain ⟨-, -, hcf, -⟩ := refMapOk_distinct hmap
  refine ⟨fun h1 hp => ?_, fun hok => ?_⟩
  · refine exec_write_refused hi hk ht fun ended => ?_
    rw [refWrite_config hmap, refWriteConfig_refused (hasBit_iff.mpr h1) hp]
  · obtain ⟨sv, hsv⟩ := refWriteConfig_served (hok.imp_left hasBit_eq_false_iff.mpr) (s.env.now + d)
    obtain ⟨t, hexec, hseq, htr, hnow, hpend, hcreg⟩ :=
      exec_write_served hi hk ht hd ((refWrite_config hmap v _ _).trans hsv)
    refine ⟨t, hexec, hseq, ?_, hnow, ?_, fun hclr => ?_, fun k hkc hkf => ?_, fun h1 => ?_, fun h1 => ?_⟩
    · simp [htr, refWriteConfig_transport hsv, ht]
    · simp [hcreg, refWriteConfig_creg hsv, storedConfig_eq]
    · simp [hcreg, refWriteConfig_creg hsv, hcf.symm, hasBit_iff.mpr hclr]
    · have hno : ¬ (hasBit v s.cfg.mFclr = true ∧ k = s.cfg.aFault) := by
        rw [hasBit_iff]; tauto
      rw [hcreg, refWriteConfig_creg hsv, if_neg hkc, if_neg hno]
    · rw [hpend, refWriteConfig_pending_keep hsv (hasBit_eq_false_iff.mpr h1)]
    · rw [hpend]
      exact refWriteConfig_pending_start hsv (hasBit_iff.mpr h1) (one_le_convTicks_of_wf hwf)

/-- Settles O29: the write is one of `refWrite`'s two other branches, a byte stored or a refusal. -/
theorem envRefOtherWrites : Obligations.EnvRefOtherWrites := by
  intro i a v s d hi hc hwf hmap hk ht hd
  refine ⟨fun hthr => ?_, fun hno => ?_⟩
  · obtain ⟨t, hexec, hseq, htr, hnow, hpend, hcreg⟩ :=
      exec_write_served hi hk ht hd (refWrite_threshold hmap hc (isThresholdAddr_iff.mpr hthr) v _ _)
    refine ⟨t, hexec, hseq, ?_, hnow, hpend, ?_, fun k hka => ?_⟩
    · simp [htr, ht]
    · simp [hcreg, creg_setCreg]
    · simp [hcreg, creg_setCreg, hka]
  · refine exec_write_refused hi hk ht fun ended => refWrite_refused hc ?_ v ended _
    rw [Bool.eq_false_iff, ne_eq, isThresholdAddr_iff]
    tauto

end Sys2Proof.Machine
end

section
/-! PROOF. What the decoder makes of a command word, by its opcode and the operand bits of A (spec/30_encoding.md
R64 to R71). -/

namespace Sys2Proof

/-- Bits 17:16 of a command word are `A[1:0]` (R65, R66). -/
theorem cmdA_code (w : CmdWord) : (cmdA w).extractLsb' 0 2 = w.extractLsb' 16 2 := by
  ext i hi
  simp only [cmdA, BitVec.getElem_extractLsb', BitVec.getLsbD_extractLsb']
  rw [Nat.zero_add, decide_eq_true (by omega), Bool.true_and]

/-- Bit 16 of a command word is `A[0]` (R65, R67). -/
theorem cmdA_bit (w : CmdWord) : (cmdA w).getLsbD 0 = w.getLsbD 16 := by
  simp [cmdA]

theorem decodeCmd_of_op {w : CmdWord} {op : Byte} (h : w.extractLsb' 32 8 = op) :
    decodeCmd w = decodeFields op (cmdA w) (cmdB w) := by
  rw [← h]
  rfl

/-- The codes of the three wiring modes leave one code over, the reserved 3 (R66). -/
theorem wireCode_cases (m : BitVec 2) : m = 3#2 ∨ ∃ mode, m = wireCode mode := by
  have h : m = 0#2 ∨ m = 1#2 ∨ m = 2#2 ∨ m = 3#2 := by revert m; decide
  obtain h | h | h | h := h
  · exact .inr ⟨.two, h⟩
  · exact .inr ⟨.three, h⟩
  · exact .inr ⟨.four, h⟩
  · exact .inl h

theorem wireCode_ne_three (mode : WireMode) : wireCode mode ≠ 3#2 := by
  cases mode <;> decide

@[simp] theorem wireOfCode_three : wireOfCode 3#2 = none := rfl

section WireOperand
variable {a : Word} (b : Word)

theorem decodeFields_begin_of_code {mode : WireMode} (h : a.extractLsb' 0 2 = wireCode mode) :
    decodeFields 0x00#8 a b = .beginCmd mode (a.extractLsb' 2 14) b := by
  have hop : classifyOp 0x00#8 = .beginOp := rfl
  simp [decodeFields, hop, h]

theorem decodeFields_begin_reserved (h : a.extractLsb' 0 2 = 3#2) :
    decodeFields 0x00#8 a b = .illegalBeginMode3 (a.extractLsb' 2 14) b := by
  have hop : classifyOp 0x00#8 = .beginOp := rfl
  simp [decodeFields, hop, h]

theorem decodeFields_setWires_of_code {mode : WireMode} (h : a.extractLsb' 0 2 = wireCode mode) :
    decodeFields 0x06#8 a b = .setWires mode (a.extractLsb' 2 14) b := by
  have hop : classifyOp 0x06#8 = .setWires := rfl
  simp [decodeFields, hop, h]

theorem decodeFields_setWires_reserved (h : a.extractLsb' 0 2 = 3#2) :
    decodeFields 0x06#8 a b = .illegalSetWiresMode3 (a.extractLsb' 2 14) b := by
  have hop : classifyOp 0x06#8 = .setWires := rfl
  simp [decodeFields, hop, h]

end WireOperand

end Sys2Proof

namespace Sys2Proof.Machine

/-- BEGIN's opcode with each code of `A[1:0]` (R66, R70). -/
theorem decodeCmd_begin {w : CmdWord} (hop : w.extractLsb' 32 8 = 0x00#8) :
    (∀ mode, w.extractLsb' 16 2 = wireCode mode → ∃ x y, decodeCmd w = .beginCmd mode x y)
      ∧ (w.extractLsb' 16 2 = 3#2 → ∃ x y, decodeCmd w = .illegalBeginMode3 x y) := by
  rw [decodeCmd_of_op hop, ← cmdA_code]
  exact ⟨fun _ h => ⟨_, _, decodeFields_begin_of_code _ h⟩, fun h => ⟨_, _, decodeFields_begin_reserved _ h⟩⟩

/-- SET_WIRES's opcode with each code of `A[1:0]` (R66, R70). -/
theorem decodeCmd_setWires {w : CmdWord} (hop : w.extractLsb' 32 8 = 0x06#8) :
    (∀ mode, w.extractLsb' 16 2 = wireCode mode → ∃ x y, decodeCmd w = .setWires mode x y)
      ∧ (w.extractLsb' 16 2 = 3#2 → ∃ x y, decodeCmd w = .illegalSetWiresMode3 x y) := by
  rw [decodeCmd_of_op hop, ← cmdA_code]
  exact ⟨fun _ h => ⟨_, _, decodeFields_setWires_of_code _ h⟩, fun h => ⟨_, _, decodeFields_setWires_reserved _ h⟩⟩

/-- Settles O4: the opcode fixes the row, and for BEGIN and SET_WIRES the code of `A[1:0]` the mode. -/
theorem opcodesNameTheCommands : Obligations.OpcodesNameTheCommands := by
  intro w
  refine ⟨fun h => ?_, fun h => ?_, fun h => ?_, fun h => ?_, fun h => ?_, fun h => ?_, fun h => ?_, fun h => ?_,
    fun h => ?_, fun h => ?_⟩
  · obtain ⟨hmode, hreserved⟩ := decodeCmd_begin h
    exact ⟨hmode .two, hmode .three, hmode .four, hreserved⟩
  · exact ⟨_, _, decodeCmd_of_op h⟩
  · exact ⟨_, _, decodeCmd_of_op h⟩
  · exact ⟨_, _, decodeCmd_of_op h⟩
  · rw [← cmdA_bit]
    exact ⟨_, _, decodeCmd_of_op h⟩
  · rw [← cmdA_bit]
    exact ⟨_, _, decodeCmd_of_op h⟩
  · obtain ⟨hmode, hreserved⟩ := decodeCmd_setWires h
    exact ⟨hmode .two, hmode .three, hmode .four, hreserved⟩
  · exact decodeCmd_of_op h
  · exact ⟨_, _, decodeCmd_of_op h⟩
  · exact ⟨_, _, decodeCmd_of_op h⟩

/-- Of BEGIN's and SET_WIRES's opcodes the reserved code alone is illegal, of the other eight commands' no word is,
and of the six reserved ranges every word is (R70). -/
theorem isIllegal_decodeFields_iff (op : Byte) (a b : Word) :
    isIllegal (decodeFields op a b) = true
      ↔ 0x0A ≤ op.toNat ∨ ((op = 0x00#8 ∨ op = 0x06#8) ∧ a.extractLsb' 0 2 = 3#2) := by
  obtain ⟨c, rfl⟩ : ∃ c, op = opcodeOf c := ⟨classifyOp op, (opcodeOf_classifyOp op).symm⟩
  cases c with
  | beginOp =>
    obtain h | ⟨mode, h⟩ := wireCode_cases (a.extractLsb' 0 2)
    · simp [opcodeOf, decodeFields_begin_reserved b h, isIllegal, h]
    · simp [opcodeOf, decodeFields_begin_of_code b h, isIllegal, h, wireCode_ne_three]
  | setWires =>
    obtain h | ⟨mode, h⟩ := wireCode_cases (a.extractLsb' 0 2)
    · simp [opcodeOf, decodeFields_setWires_reserved b h, isIllegal, h]
    · simp [opcodeOf, decodeFields_setWires_of_code b h, isIllegal, h, wireCode_ne_three]
  | readRtd | readFault | clearFault | enableBias | autoConvert | setThresholds | getLowerThreshold
  | getUpperThreshold =>
    refine iff_of_false ?_ ?_
    · simp [decodeFields, classifyOp_opcodeOf, isIllegal]
    · simp [opcodeOf]
  | op0A0B low | op0C0F low | op101F low | op203F low | op407F low | op80FF low =>
    refine iff_of_true ?_ (.inl ?_)
    · simp only [decodeFields, classifyOp_opcodeOf, isIllegal]
    · revert low; decide

/-- Every command word is a command or an illegal word, and not both (R71). -/
theorem isCommand_decodeFields (op : Byte) (a b : Word) :
    isCommand (decodeFields op a b) = !isIllegal (decodeFields op a b) := by
  unfold decodeFields
  cases classifyOp op with
  | beginOp | setWires => cases wireOfCode (a.extractLsb' 0 2) <;> rfl
  | _ => rfl

/-- Settles O3: an opcode is the opcode of one class, and of each class it is known which words are illegal. -/
theorem illegalWordsAreTheReservedOnes : Obligations.IllegalWordsAreTheReservedOnes := by
  intro w
  rw [← cmdA_code]
  exact ⟨isIllegal_decodeFields_iff _ _ _, isCommand_decodeFields _ _ _⟩

end Sys2Proof.Machine
end

section
/-! PROOF. The events a command records are those its micro-program's entries may cause (spec/20_memory.md R36,
spec/30_encoding.md R80). -/

namespace Sys2Proof.Machine

/-- From `e` to `e'` the history has grown by events that R36 and R80 allow, and by nothing else. -/
def Env.GrowsAllowed (cfg : Config) (e e' : Env) : Prop :=
  ∃ l, e'.history = e.history ++ l ∧ ∀ ev ∈ l, allowedEvent cfg ev.what = true

section GrowsAllowed
variable {cfg : Config} {e e' e'' : Env}

theorem Env.GrowsAllowed.of_same (h : e'.history = e.history) : Env.GrowsAllowed cfg e e' :=
  ⟨[], by simp [h], by simp⟩

theorem Env.GrowsAllowed.of_event {ev : Event} (h : e'.history = e.history ++ [ev])
    (hev : allowedEvent cfg ev.what = true) : Env.GrowsAllowed cfg e e' :=
  ⟨[ev], h, by simpa using hev⟩

theorem Env.GrowsAllowed.trans (h : Env.GrowsAllowed cfg e e') (g : Env.GrowsAllowed cfg e' e'') :
    Env.GrowsAllowed cfg e e'' := by
  obtain ⟨l, hl, hallowed⟩ := h
  obtain ⟨l', hl', hallowed'⟩ := g
  refine ⟨l ++ l', by rw [hl', hl, List.append_assoc], fun ev hev => ?_⟩
  exact (List.mem_append.mp hev).elim (hallowed ev) (hallowed' ev)

end GrowsAllowed

/-- The entry's address is one its kind of frame may have (R36, R80), and its delay one of the two (R6). -/
def Micro.InMap (cfg : Config) : Micro → Prop
  | .rd8 a => a = cfg.aConfig ∨ a = cfg.aFault
  | .rd16 a => a = cfg.aRtdMsb ∨ a = cfg.aHthrMsb ∨ a = cfg.aLthrMsb
  | .wr8 a _ => a = cfg.aConfig ∨ isThresholdAddr cfg a = true
  | .dly n => n = cfg.settleTicks ∨ n = cfg.convTicks
  | .init | .setRes _ | .skip _ _ | .respond _ _ => True

/-- Every entry of every micro-program keeps to the register map. -/
theorem microProgram_inMap (cfg : Config) (i : Instr) : ∀ m ∈ microProgram cfg i, m.InMap cfg := by
  cases i with
  | beginCmd mode => simp [microProgram, progBegin, Micro.InMap, isThresholdAddr]
  | readRtd => simp [microProgram, progReadRtd, Micro.InMap]
  | readFault => simp [microProgram, progReadFault, Micro.InMap]
  | clearFault => simp [microProgram, progClearFault, Micro.InMap]
  | enableBias on => simp [microProgram, progEnableBias, Micro.InMap]
  | autoConvert on => simp [microProgram, progAutoConvert, Micro.InMap]
  | setWires mode => simp [microProgram, progSetWires, Micro.InMap]
  | setThresholds => simp [microProgram, progSetThresholds, Micro.InMap, isThresholdAddr]
  | getLowerThreshold => simp [microProgram, progGetLowerThreshold, Micro.InMap]
  | getUpperThreshold => simp [microProgram, progGetUpperThreshold, Micro.InMap]
  | illegalBeginMode3 | illegalSetWiresMode3 | illegalOp0A0B | illegalOp0C0F | illegalOp101F | illegalOp203F
  | illegalOp407F | illegalOp80FF => simp [microProgram, progIllegal, Micro.InMap]
  | _ => exact fun _ hm => nomatch hm

/-- An operation of the transport records its own event, or nothing while it is unanswered (R52, R138). -/
theorem transact_growsAllowed {cfg : Config} {f : Frame} {s t : State} (h : transact f s = .next t)
    (hf : ∀ r0 r1, allowedEvent cfg (frameEvent f r0 r1) = true) : Env.GrowsAllowed cfg s.env t.env := by
  obtain ⟨-, -, rfl⟩ | ⟨d, sv, -, hs, rfl⟩ := transact_next h
  · exact .of_same rfl
  · obtain ⟨-, -, hhist, -⟩ := serve_next hs
    exact .of_event hhist (hf _ _)

/-- An entry that keeps to the register map records only what R36 and R80 allow. -/
theorem runMicro_growsAllowed {m : Micro} {s t : State} (hm : m.InMap s.cfg) (h : runMicro m s = .next t) :
    Env.GrowsAllowed s.cfg s.env t.env := by
  obtain ⟨f, hf, hkind⟩ | ⟨n, rfl, rfl⟩ | ⟨src, w, -, -, rfl⟩ | ⟨x, y, -, rfl⟩ | ⟨src, st, d, -, -, rfl⟩ :=
    runMicro_next h
  · refine transact_growsAllowed hf fun r0 r1 => ?_
    obtain ⟨-, rfl⟩ | ⟨a, rfl, rfl⟩ | ⟨a, rfl, rfl⟩ | ⟨a, v, byte, rfl, -, rfl⟩ := hkind
    · rfl
    · obtain rfl | rfl := hm <;> simp [frameEvent, allowedEvent]
    · obtain rfl | rfl | rfl := hm <;> simp [frameEvent, allowedEvent]
    · rw [Micro.InMap, isThresholdAddr_iff] at hm
      obtain rfl | rfl | rfl | rfl | rfl := hm <;> simp [frameEvent, allowedEvent]
  · exact .of_event rfl (by simpa [allowedEvent, Micro.InMap] using hm)
  · exact .of_same rfl
  · exact .of_same rfl
  · exact .of_event rfl rfl

theorem microStep_growsAllowed {s t : State} (h : microStep s = .next t) :
    Env.GrowsAllowed s.cfg s.env t.env := by
  obtain ⟨m, hm, hrun⟩ := atUpc_next h
  exact runMicro_growsAllowed (microProgram_inMap _ _ m (List.mem_of_getElem? hm)) hrun

/-- The parameters stand throughout, so what one micro-step may record is what the run may. -/
theorem runCommand_growsAllowed {n : Nat} {s t : State} (h : runCommand n s = .next t) :
    Env.GrowsAllowed s.cfg s.env t.env := by
  have hkeep := runCommand_keeps (P := fun u => u.cfg = s.cfg ∧ Env.GrowsAllowed s.cfg s.env u.env)
    (fun u v _ _ hstep ⟨hcfg, hgrow⟩ =>
      ⟨(microStep_rest hstep).cfg.trans hcfg, hgrow.trans (hcfg ▸ microStep_growsAllowed hstep)⟩)
    n s t h ⟨rfl, .of_same rfl⟩
  exact hkeep.2

/-- Each of the ten commands is run by acceptance of some word (R26). -/
theorem exec_of_isCommand {i : Instr} (h : isCommand i = true) (s : State) :
    ∃ op a b, exec i s = command op a b s := by
  cases i with
  | beginCmd | readRtd | readFault | clearFault | enableBias | autoConvert | setWires | setThresholds
  | getLowerThreshold | getUpperThreshold => exact ⟨_, _, _, rfl⟩
  | _ => cases h

/-- Settles O55: acceptance records nothing, and no entry of any micro-program leaves the register map. -/
theorem commandsEmitOnlyTheirFrames : Obligations.CommandsEmitOnlyTheirFrames := by
  intro i s t hi hbusy _ _ h
  obtain ⟨op, a, b, hexec⟩ := exec_of_isCommand hi s
  rw [hexec, command_ready hbusy] at h
  have hgrow := runCommand_growsAllowed h
  exact hgrow

end Sys2Proof.Machine
end

section
/-! PROOF. Packing and unpacking the bytes of the configuration and the fault-status register, the two modifications
of `T`, and the bytes of an address (spec/40_codec.md R82 to R88, R92, R93). -/

namespace Sys2Proof.Machine

/-! ## What the checks of the masks give (spec/00_scope.md R6) -/

theorem oneBit_iff {m : Byte} : Config.oneBit m = true ↔ ∃ k < 8, m = BitVec.twoPow 8 k := by
  simp [Config.oneBit, BitVec.twoPow_eq]

theorem twoAdjacentBits_iff {m : Byte} : Config.twoAdjacentBits m = true ↔ ∃ k < 7, m = 3#8 <<< k := by
  simp [Config.twoAdjacentBits]

section Wf
variable {cfg : Config} (h : cfg.wf = true)
include h

theorem cfgMasks_disjoint : cfg.cfgMasks.Pairwise fun m n => m &&& n = 0#8 := by
  simp only [Config.wf, Config.cfgMasksOk, Config.disjoint, Bool.and_eq_true, decide_eq_true_eq] at h
  tauto

/-- The seven configuration masks fill the byte. -/
theorem cfgMasks_cover :
    cfg.mBias ||| cfg.mAuto ||| cfg.m1Shot ||| cfg.m3Wire ||| cfg.mFcycle ||| cfg.mFclr ||| cfg.mFilt
      = BitVec.allOnes 8 := by
  have hcover : cfg.cfgMasks.foldl (· ||| ·) 0#8 = 0xFF#8 := by
    simp only [Config.wf, Config.cfgMasksOk, Bool.and_eq_true, beq_iff_eq] at h
    tauto
  simpa [Config.cfgMasks] using hcover

theorem fcycleMask_adjacent : Config.twoAdjacentBits cfg.mFcycle = true := by
  simp only [Config.wf, Config.cfgMasksOk, Bool.and_eq_true] at h
  tauto

/-- Every configuration mask but the fault cycle's is one bit. -/
theorem flagMasks_oneBit :
    ∀ m ∈ [cfg.mBias, cfg.mAuto, cfg.m1Shot, cfg.m3Wire, cfg.mFclr, cfg.mFilt], Config.oneBit m = true := by
  simp only [Config.wf, Config.cfgMasksOk, Bool.and_eq_true, List.all_eq_true] at h
  tauto

theorem faultMasks_oneBit : ∀ m ∈ cfg.faultMasks, Config.oneBit m = true := by
  simp only [Config.wf, Config.faultMasksOk, Bool.and_eq_true, List.all_eq_true] at h
  tauto

end Wf

/-! ## One field -/

/-- A mask of one bit lets through nothing or itself. -/
theorem and_eq_mask_of_oneBit {c m : Byte} (h : Config.oneBit m = true) (hne : c &&& m ≠ 0#8) : c &&& m = m := by
  obtain ⟨k, -, rfl⟩ := oneBit_iff.mp h
  rw [BitVec.and_twoPow] at hne ⊢
  split at hne
  · rw [if_pos ‹_›]
  · exact absurd rfl hne

/-- What a one-bit field shows, put back at its mask, is what the mask lets through. -/
theorem maskIf_hasBit {m : Byte} (h : Config.oneBit m = true) (c : Byte) : maskIf (hasBit c m) m = c &&& m := by
  by_cases hc : c &&& m = 0#8
  · simp [hasBit_eq_false_iff.mpr hc, maskIf, hc]
  · simp [hasBit_iff.mpr hc, maskIf, and_eq_mask_of_oneBit h hc]

/-- A Boolean put at a mask of one bit is the Boolean its byte shows. -/
theorem maskIf_ne_zero {m : Byte} (h : Config.oneBit m = true) (b : Bool) : (maskIf b m != 0#8) = b := by
  have hm : m ≠ 0#8 := by
    obtain ⟨k, hk, rfl⟩ := oneBit_iff.mp h
    revert k; decide
  cases b <;> simp [maskIf, hm]

theorem maskIf_and_self (b : Bool) (m : Byte) : maskIf b m &&& m = maskIf b m := by
  cases b <;> simp [maskIf]

/-- Of two adjacent bits the lower one is the least significant bit set. -/
theorem lowbit_of_adjacent {k : Nat} (hk : k < 7) : lowbit (3#8 <<< k) = k := by
  revert k; decide

section Fcycle
variable {m : Byte} (h : Config.twoAdjacentBits m = true)
include h

/-- Two adjacent bits taken down to two bits and put back are what the mask lets through (R82, R83). -/
theorem fcycle_up_down (c : Byte) :
    (((c &&& m) >>> lowbit m).setWidth 2).setWidth 8 <<< lowbit m = c &&& m := by
  obtain ⟨k, hk, rfl⟩ := twoAdjacentBits_iff.mp h
  rw [lowbit_of_adjacent hk]
  revert k c; decide

theorem fcycle_down_up (v : BitVec 2) : ((v.setWidth 8 <<< lowbit m) >>> lowbit m).setWidth 2 = v := by
  obtain ⟨k, hk, rfl⟩ := twoAdjacentBits_iff.mp h
  rw [lowbit_of_adjacent hk]
  revert k v; decide

/-- The field does not overflow into a neighbour (R83). -/
theorem fcycle_and_mask (v : BitVec 2) : v.setWidth 8 <<< lowbit m &&& m = v.setWidth 8 <<< lowbit m := by
  obtain ⟨k, hk, rfl⟩ := twoAdjacentBits_iff.mp h
  rw [lowbit_of_adjacent hk]
  revert k v; decide

end Fcycle

/-! ## A byte of disjoint fields, each given with its mask -/

/-- The byte that joins the fields; each stands in front of its mask. -/
def joinFields : List (Byte × Byte) → Byte
  | [] => 0#8
  | p :: ps => p.1 ||| joinFields ps

theorem and_eq_zero_of_within {p m n : Byte} (hp : p &&& m = p) (hmiss : m &&& n = 0#8) : p &&& n = 0#8 := by
  rw [← hp, BitVec.and_assoc, hmiss, BitVec.and_zero]

/-- Fields in masks that miss `n` miss `n` together. -/
theorem joinFields_and_eq_zero {n : Byte} (ps : List (Byte × Byte)) (hin : ∀ p ∈ ps, p.1 &&& p.2 = p.1)
    (hmiss : ∀ p ∈ ps, p.2 &&& n = 0#8) : joinFields ps &&& n = 0#8 := by
  induction ps with
  | nil => exact BitVec.zero_and
  | cons p ps ih =>
    obtain ⟨hp, hps⟩ := List.forall_mem_cons.mp hin
    obtain ⟨hpn, hpsn⟩ := List.forall_mem_cons.mp hmiss
    rw [joinFields, BitVec.and_or_distrib_right, and_eq_zero_of_within hp hpn, ih hps hpsn, BitVec.or_zero]

/-- When no two masks share a bit, a mask lets its own field through and nothing else. -/
theorem joinFields_and_mask (ps : List (Byte × Byte)) (hin : ∀ p ∈ ps, p.1 &&& p.2 = p.1)
    (hdis : ps.Pairwise fun p q => p.2 &&& q.2 = 0#8) : ∀ p ∈ ps, joinFields ps &&& p.2 = p.1 := by
  induction ps with
  | nil => exact List.forall_mem_nil _
  | cons p ps ih =>
    obtain ⟨hp, hps⟩ := List.forall_mem_cons.mp hin
    obtain ⟨hmiss, hdis⟩ := List.pairwise_cons.mp hdis
    refine List.forall_mem_cons.mpr ⟨?_, fun q hq => ?_⟩
    · have hrest : joinFields ps &&& p.2 = 0#8 :=
        joinFields_and_eq_zero ps hps fun q hq => BitVec.and_comm q.2 p.2 ▸ hmiss q hq
      rw [joinFields, BitVec.and_or_distrib_right, hp, hrest, BitVec.or_zero]
    · rw [joinFields, BitVec.and_or_distrib_right, and_eq_zero_of_within hp (hmiss q hq), ih hps hdis q hq,
        BitVec.zero_or]

/-! ## The configuration register -/

/-- The seven fields of a configuration byte with their masks, in the order of `Config.cfgMasks` (R83). -/
def cfgFieldParts (cfg : Config) (f : CfgFields) : List (Byte × Byte) :=
  [(maskIf f.bias cfg.mBias, cfg.mBias), (maskIf f.auto cfg.mAuto, cfg.mAuto),
    (maskIf f.oneshot cfg.m1Shot, cfg.m1Shot), (maskIf f.wire3 cfg.m3Wire, cfg.m3Wire),
    (f.fcycle.setWidth 8 <<< lowbit cfg.mFcycle, cfg.mFcycle), (maskIf f.fclr cfg.mFclr, cfg.mFclr),
    (maskIf f.filt cfg.mFilt, cfg.mFilt)]

theorem cfgPack_eq_joinFields (cfg : Config) (f : CfgFields) :
    cfgPack cfg f = joinFields (cfgFieldParts cfg f) := by
  simp [cfgPack, cfgFieldParts, joinFields, BitVec.or_assoc]

/-- Each mask of a packed configuration byte lets its own field through. -/
theorem cfgPack_and_mask {cfg : Config} (h : cfg.wf = true) (f : CfgFields) :
    ∀ p ∈ cfgFieldParts cfg f, cfgPack cfg f &&& p.2 = p.1 := by
  have hdis : ((cfgFieldParts cfg f).map Prod.snd).Pairwise fun m n => m &&& n = 0#8 := cfgMasks_disjoint h
  rw [cfgPack_eq_joinFields]
  refine joinFields_and_mask _ ?_ (List.pairwise_map.mp hdis)
  simp [cfgFieldParts, maskIf_and_self, fcycle_and_mask (fcycleMask_adjacent h)]

theorem cfgPack_cfgUnpack {cfg : Config} (h : cfg.wf = true) (c : Byte) : cfgPack cfg (cfgUnpack cfg c) = c := by
  have hflag := flagMasks_oneBit h
  simp only [List.forall_mem_cons] at hflag
  obtain ⟨hbias, hauto, hshot, hwire, hfclr, hfilt, -⟩ := hflag
  calc cfgPack cfg (cfgUnpack cfg c)
      = c &&& cfg.mBias ||| c &&& cfg.mAuto ||| c &&& cfg.m1Shot ||| c &&& cfg.m3Wire ||| c &&& cfg.mFcycle
          ||| c &&& cfg.mFclr ||| c &&& cfg.mFilt := by
        simp only [cfgPack, cfgUnpack, maskIf_hasBit, fcycle_up_down (fcycleMask_adjacent h), *]
    _ = c := by
        simp only [← BitVec.and_or_distrib_left, cfgMasks_cover h, BitVec.and_allOnes]

theorem cfgUnpack_cfgPack {cfg : Config} (h : cfg.wf = true) (f : CfgFields) :
    cfgUnpack cfg (cfgPack cfg f) = f := by
  have hflag := flagMasks_oneBit h
  have hpart := cfgPack_and_mask h f
  simp only [cfgFieldParts, List.forall_mem_cons] at hflag hpart
  obtain ⟨hbias, hauto, hshot, hwire, hfclr, hfilt, -⟩ := hflag
  obtain ⟨pbias, pauto, pshot, pwire, pfcycle, pfclr, pfilt, -⟩ := hpart
  simp only [cfgUnpack, hasBit, maskIf_ne_zero, fcycle_down_up (fcycleMask_adjacent h), *]

/-- Settles O6: disjoint masks let each field through alone, and masks that fill the byte lose no bit. -/
theorem configurationCodecRoundTrip : Obligations.ConfigurationCodecRoundTrip :=
  fun _ h => ⟨cfgPack_cfgUnpack h, cfgUnpack_cfgPack h⟩

/-! ## The fault-status register -/

theorem faultPack_faultUnpack {cfg : Config} (h : cfg.wf = true) (f : Byte) :
    faultPack cfg (faultUnpack cfg f) = f := by
  have hflag := faultMasks_oneBit h
  simp only [Config.faultMasks, List.forall_mem_cons] at hflag
  obtain ⟨hhigh, hlow, hrefLow, hrefHigh, hrtd, hovUv, -⟩ := hflag
  calc faultPack cfg (faultUnpack cfg f)
      = f &&& cfg.fHighThr ||| f &&& cfg.fLowThr ||| f &&& cfg.fRefInLow ||| f &&& cfg.fRefInHigh
          ||| f &&& cfg.fRtdInLow ||| f &&& cfg.fOvUv ||| f &&& ~~~faultUnion cfg := by
        simp only [faultPack, faultUnpack, maskIf_hasBit, *]
    _ = f &&& (faultUnion cfg ||| ~~~faultUnion cfg) := by
        simp only [faultUnion, BitVec.and_or_distrib_left]
    _ = f := by rw [BitVec.or_not_self, BitVec.and_allOnes]

/-- Settles O7: the six masks and their complement, which `rsvd` keeps, fill the byte. -/
theorem faultCodecRoundTrip : Obligations.FaultCodecRoundTrip :=
  fun _ h => ⟨fun _ => rfl, faultPack_faultUnpack h⟩

/-! ## The modifications of `T`, and the address bytes -/

theorem cfgSet_cfgSet (t m : Byte) : cfgSet (cfgSet t m) m = cfgSet t m := by
  rw [cfgSet, cfgSet, BitVec.or_assoc, BitVec.or_self]

theorem cfgClr_cfgClr (t m : Byte) : cfgClr (cfgClr t m) m = cfgClr t m := by
  rw [cfgClr, cfgClr, BitVec.and_assoc, BitVec.and_self]

/-- Settles O8: the codec's laws of R85, and that both functions are idempotent. -/
theorem setAndClearTouchOnlyTheirMask : Obligations.SetAndClearTouchOnlyTheirMask :=
  fun t m => ⟨rfl, rfl, cfgSet_outside t m, cfgClr_outside t m, cfgSet_cfgSet t m, cfgClr_cfgClr t m,
    cfgSet_and_mask t m, cfgClr_and_mask t m⟩

theorem addrRd_mark (a : Byte) : (addrRd a).getLsbD 7 = false := by
  simp [addrRd]

theorem addrWr_mark (a : Byte) : (addrWr a).getLsbD 7 = true := by
  simp [addrWr, Config.writeMark]

/-- Settles O9: the mark is bit 7, which no address parameter has. -/
theorem addressBytesCarryTheMark : Obligations.AddressBytesCarryTheMark :=
  fun a ha => ⟨rfl, rfl, addrRd_addrWr a, addrRd_of_lt ha, addrRd_mark a, addrWr_mark a⟩

end Sys2Proof.Machine
end

section
/-! PROOF. A command as the run of its micro-program (spec/41_bus_primitives.md R96, spec/42_configuration.md R105):
acceptance, one transport operation, the entries without one, and the response. -/

namespace Sys2Proof.Machine

/-! ## The transport's answers -/

theorem Env.returns.duration {e : Env} {n k : Nat} (h : e.returns n) (hk : k < n) :
    (e.answerAt k).duration = some (e.dur k) := by
  obtain ⟨d, hd⟩ := Option.isSome_iff_exists.mp (h k hk)
  simp [Env.dur, hd]

/-- An operation served uses up one of the answers promised. -/
theorem Env.returns.of_serve {cfg : Config} {f : Frame} {ans : Answer} {d n : Nat} {e : Env} {sv : Served}
    (h : e.returns (n + 1)) (hs : serve cfg f ans d e = .next sv) : sv.env.returns n := by
  obtain ⟨-, -, -, hans, hdraws, -⟩ := serve_next hs
  intro k hk
  rw [answerAt_shift hans hdraws]
  exact h (k + 1) (by omega)

/-! ## A command in execution -/

/-- A command is in execution under the parameters `cfg`, at entry `k` of its micro-program `p`, with the operands `a`
and `b` latched and no handshake open. -/
structure Running (cfg : Config) (p : List Micro) (a b : Word) (k : BitVec 4) (s : State) : Prop where
  busy : s.seq.busy = true
  tReq : s.port.tReq = false
  cfg_eq : s.cfg = cfg
  program : currentProgram cfg s.seq = p
  a_eq : s.seq.a = a
  b_eq : s.seq.b = b
  upc : s.seq.upc = k

/-- Acceptance selects the micro-program (R26, R15). -/
theorem running_accept {s : State} (h : s.port.tReq = false) (op : Byte) (a b : Word) :
    Running s.cfg (microProgram s.cfg (decodeFields op a b)) a b 0#4 (accept op a b s) :=
  ⟨rfl, h, rfl, rfl, rfl, rfl, rfl⟩

section TakeBytes
variable (f : Frame) (r0 r1 : Byte) (q : Seq)

@[simp] theorem takeBytes_busy : (takeBytes f r0 r1 q).busy = q.busy := by cases f <;> rfl
@[simp] theorem takeBytes_op : (takeBytes f r0 r1 q).op = q.op := by cases f <;> rfl
@[simp] theorem takeBytes_a : (takeBytes f r0 r1 q).a = q.a := by cases f <;> rfl
@[simp] theorem takeBytes_b : (takeBytes f r0 r1 q).b = q.b := by cases f <;> rfl
@[simp] theorem takeBytes_upc : (takeBytes f r0 r1 q).upc = q.upc := by cases f <;> rfl

end TakeBytes

/-- An entry with a transport operation runs that operation (R96). -/
theorem runMicro_of_frame {m : Micro} {f : Frame} {s : State} (h : m.frame s.cfg s.seq = some f) :
    runMicro m s = transact f s := by
  cases m with
  | init | rd8 a | rd16 a => cases h; rfl
  | wr8 a v =>
    cases hv : v.eval s.cfg s.seq with
    | ok byte => simp only [Micro.frame, hv, Option.some.injEq] at h; simp [runMicro, hv, h]
    | error x => simp [Micro.frame, hv] at h
  | dly n | setRes src | skip x y | respond src st => cases h

theorem frame_wr8 {cfg : Config} {q : Seq} {v : WrData} {byte : Byte} (h : v.eval cfg q = .ok byte) (a : Byte) :
    (Micro.wr8 a v).frame cfg q = some (.write a byte) := by
  simp only [Micro.frame, h]

section Running
variable {cfg : Config} {p : List Micro} {a b : Word} {k : BitVec 4} {s : State} (h : Running cfg p a b k s)
include h

theorem Running.microStep {m : Micro} (hm : p[k.toNat]? = some m) : microStep s = runMicro m s :=
  atUpc_some (by rw [h.cfg_eq, h.program, h.upc, hm])

theorem Running.runCommand {t : State} (hstep : Machine.microStep s = .next t) (n : Nat) :
    runCommand (n + 1) s = runCommand n t :=
  runCommand_step h.busy h.tReq hstep

/-- An operation that is served ends its micro-step (R28, R96). -/
theorem Running.transact {m : Micro} {f : Frame} {d : Nat} {sv : Served} (hm : p[k.toNat]? = some m)
    (hf : m.frame cfg s.seq = some f) (hd : (s.env.answerAt 0).duration = some d)
    (hs : serve cfg f (s.env.answerAt 0) d s.env = .next sv) :
    ∃ t, Machine.microStep s = .next t ∧ Running cfg p a b (k + 1#4) t ∧ t.env = sv.env
      ∧ t.seq = (takeBytes f sv.r0 sv.r1 s.seq).finish s.cfg.biasNormallyOff := by
  have hstep := (h.microStep hm).trans (runMicro_of_frame (h.cfg_eq ▸ hf))
  refine ⟨_, hstep.trans (transact_served hd (h.cfg_eq ▸ hs)), ?_, rfl, rfl⟩
  obtain ⟨hbusy, -, hcfg, hp, ha, hb, hupc⟩ := h
  exact ⟨by simp [hbusy], rfl, hcfg, by simpa [currentProgram] using hp, by simp [ha],
    by simp [hb], by simp [hupc]⟩

/-- Forming RES ends its micro-step (R20). -/
theorem Running.setRes {src : ResSrc} {w : Word} (hm : p[k.toNat]? = some (.setRes src))
    (hw : src.eval s.seq = .ok w) :
    Machine.microStep s = .next (setResult w s) ∧ Running cfg p a b (k + 1#4) (setResult w s) := by
  refine ⟨(h.microStep hm).trans (by simp only [runMicro, hw, withOperand_ok]), ?_⟩
  exact ⟨h.busy, h.tReq, h.cfg_eq, h.program, h.a_eq, h.b_eq, congrArg (· + 1#4) h.upc⟩

/-- The response ends the command (R22). -/
theorem Running.respond {src : RspSrc} {st : RspStatus} {d : Word} (hm : p[k.toNat]? = some (.respond src st))
    (hd : src.eval s.seq = .ok d) (n : Nat) :
    Machine.runCommand (n + 1) s = .next (Machine.respond d st s) := by
  have hstep : Machine.microStep s = .next (Machine.respond d st s) :=
    (h.microStep hm).trans (by simp only [runMicro, hd, withOperand_ok])
  rw [h.runCommand hstep]
  exact runCommand_done (.inl rfl)

end Running

/-! ## The three setters -/

/-- `i` is ENABLE_BIAS, AUTO_CONVERT or SET_WIRES, `m` the one mask it names, and `want` what becomes of that bit
(R107 to R109). -/
def SetsField (cfg : Config) (i : Instr) (m : Byte) (want : Bool) : Prop :=
  (∃ on x y, i = .enableBias on x y ∧ m = cfg.mBias ∧ want = on)
    ∨ (∃ on x y, i = .autoConvert on x y ∧ m = cfg.mAuto ∧ want = on)
    ∨ (∃ mode x y, i = .setWires mode x y ∧ m = cfg.m3Wire ∧ want = (mode == .three))

/-- A setter's word selects a read and a write of the configuration register and a response, and the write sends the
byte read with the one field modified. -/
theorem SetsField.program {cfg : Config} {i : Instr} {m : Byte} {want : Bool} (h : SetsField cfg i m want) :
    ∃ op a b v, (∀ s, exec i s = command op a b s)
      ∧ microProgram cfg (decodeFields op a b) = [.rd8 cfg.aConfig, .wr8 cfg.aConfig v, .respond .zero .ok]
      ∧ ∀ q : Seq, q.tLive = true → v.eval cfg q = .ok (boolBitMod want m q.t) := by
  obtain ⟨on, x, y, rfl, rfl, rfl⟩ | ⟨on, x, y, rfl, rfl, rfl⟩ | ⟨mode, x, y, rfl, rfl, rfl⟩ := h
  · refine ⟨_, _, _, _, fun s => rfl, by rw [decodeFields_enableBias]; rfl, fun q hq => ?_⟩
    cases want <;> simp [WrData.eval, readT, hq, boolBitMod, Except.map]
  · refine ⟨_, _, _, _, fun s => rfl, by rw [decodeFields_autoConvert]; rfl, fun q hq => ?_⟩
    cases want <;> simp [WrData.eval, readT, hq, boolBitMod, Except.map]
  · refine ⟨_, _, _, _, fun s => rfl, by rw [decodeFields_setWires]; rfl, fun q hq => ?_⟩
    cases mode <;> simp [WrData.eval, readT, hq, boolBitMod, wireBit, Except.map]

/-- A setter in front of either environment: when it serves the read, and the write of the modified byte, the command
responds 0x0000, and the environment is the one the write leaves. -/
theorem SetsField.exec {i : Instr} {m : Byte} {want : Bool} {s : State} {sv0 sv1 : Served}
    (h : SetsField s.cfg i m want) (hbusy : s.seq.busy = false) (hreq : s.port.tReq = false)
    (hret : s.env.returns 2)
    (hread : serve s.cfg (.read1 s.cfg.aConfig) (s.env.answerAt 0) (s.env.dur 0) s.env = .next sv0)
    (hwrite : serve s.cfg (.write s.cfg.aConfig (boolBitMod want m sv0.r0)) (sv0.env.answerAt 0) (sv0.env.dur 0)
      sv0.env = .next sv1) :
    ∃ t, exec i s = .next t ∧ t.seq.rspData = 0x0000#16
      ∧ t.env = sv1.env.elapseLag.record (.response 0x0000#16 .ok) sv1.env.now := by
  obtain ⟨op, a, b, v, hexec, hprog, hv⟩ := h.program
  have hrun0 := running_accept hreq op a b
  rw [hprog] at hrun0
  obtain ⟨s1, hstep0, hrun1, henv1, hseq1⟩ := hrun0.transact rfl rfl (hret.duration (by omega)) hread
  have hv1 : v.eval s.cfg s1.seq = .ok (boolBitMod want m sv0.r0) := by rw [hv _ (by rw [hseq1]; rfl), hseq1]; rfl
  have hret1 := hret.of_serve hread
  rw [← henv1] at hwrite hret1
  obtain ⟨s2, hstep1, hrun2, henv2, -⟩ :=
    hrun1.transact rfl (frame_wr8 hv1 _) (hret1.duration (by omega)) hwrite
  refine ⟨Machine.respond 0x0000#16 .ok s2, ?_, rfl, by rw [← henv2]; rfl⟩
  rw [hexec, command_ready hbusy, commandFuel, hrun0.runCommand hstep0, hrun1.runCommand hstep1]
  exact hrun2.respond rfl rfl _

end Sys2Proof.Machine
end

section
/-! PROOF. ENV-REF serving a command's frames while no conversion is pending and no fault is injected
(spec/20_memory.md R53 to R57). -/

namespace Sys2Proof.Machine

/-- An initialised ENV-REF with nothing that settles or is injected before an operation. -/
structure Env.Quiet (e : Env) : Prop where
  kind : e.kind = .envRef
  transport : e.transport = .ready
  pending : e.pending = none
  injections : e.injections = []

theorem ReadyRef.quiet {s : State} (h : ReadyRef s) : s.env.Quiet := by
  obtain ⟨-, -, -, hkind, htransport, hpending, hinjections, -, -⟩ := h
  exact ⟨hkind, htransport, hpending, hinjections⟩

/-- The registers `cfg` names are ENV-REF's, so an address byte's low seven bits are the address (R36, R92). -/
theorem addrRd_of_mem {cfg : Config} (h : cfg.refMapOk = true) {a : Byte} (ha : a ∈ cfg.addresses) : addrRd a = a :=
  addrRd_of_lt (Nat.lt_of_le_of_lt (refMapOk_le h ha) (by decide))

/-- The configuration register is none of the threshold bytes. -/
theorem ne_aConfig_of_isThresholdAddr {cfg : Config} (h : cfg.refMapOk = true) {a : Byte}
    (ha : isThresholdAddr cfg a = true) : a ≠ cfg.aConfig := by
  simp only [Config.refMapOk, Config.addresses, Bool.and_eq_true, decide_eq_true_eq, List.pairwise_cons] at h
  obtain ⟨-, hconfig, -⟩ := h
  refine (hconfig a ?_).symm
  rcases isThresholdAddr_iff.mp ha with rfl | rfl | rfl | rfl <;> simp

section Quiet
variable {e : Env} (h : e.Quiet)
include h

/-- Without injection and settling an operation is its frame's effect alone. -/
theorem Env.Quiet.refServe (cfg : Config) (f : Frame) (d : Nat) : refServe cfg f d e = refFrame cfg f d e := by
  have he : (e.injectNext cfg).settle cfg e.now = e := by
    simp [Env.injectNext, h.injections, Env.settle, h.pending]
  cases f <;> simp [Machine.refServe, he, h.transport]

/-- A frame's effect, once time has passed and the event is recorded, leaves ENV-REF quiet if the effect itself
does. -/
theorem Env.Quiet.serve {cfg : Config} {f : Frame} {d : Nat} {sv : Served} (hf : refFrame cfg f d e = .next sv)
    (hq : sv.env.Quiet) (ans : Answer) :
    ∃ sv', serve cfg f ans d e = .next sv' ∧ sv'.env.Quiet ∧ sv'.r0 = sv.r0 ∧ sv'.r1 = sv.r1
      ∧ ∀ k, sv'.env.creg k = sv.env.creg k :=
  ⟨_, serve_envRef_next h.kind ((h.refServe cfg f d).trans hf),
    ⟨hq.kind, hq.transport, hq.pending, hq.injections⟩, rfl, rfl, fun _ => rfl⟩

/-- Storing a byte leaves ENV-REF quiet. -/
theorem Env.Quiet.setCreg (a v : Byte) : (e.setCreg a v).Quiet :=
  ⟨h.kind, h.transport, h.pending, h.injections⟩

/-- RD8 returns the register and changes none (R55). -/
theorem Env.Quiet.serve_read1 {cfg : Config} (hmap : cfg.refMapOk = true) {a : Byte} (ha : a ∈ cfg.addresses)
    (ans : Answer) (d : Nat) :
    ∃ sv, Machine.serve cfg (.read1 a) ans d e = .next sv ∧ sv.env.Quiet ∧ sv.r0 = e.creg a
      ∧ ∀ k, sv.env.creg k = e.creg k := by
  have hf : refFrame cfg (.read1 a) d e = .next ⟨e, e.creg a, 0#8⟩ := by
    simp [refFrame, refRead1, addrRd_of_mem hmap ha, refMapOk_le hmap ha]
  obtain ⟨sv, hs, hq, hr0, -, hcreg⟩ := h.serve hf h ans
  exact ⟨sv, hs, hq, hr0, hcreg⟩

/-- RD16 returns a pair of registers and changes none (R44, R55). -/
theorem Env.Quiet.serve_read2 {cfg : Config} (hmap : cfg.refMapOk = true) {a : Byte} (ha : a ∈ cfg.addresses)
    (ha1 : a + 1#8 ∈ cfg.addresses) (ans : Answer) (d : Nat) :
    ∃ sv, Machine.serve cfg (.read2 a) ans d e = .next sv ∧ sv.env.Quiet ∧ sv.r0 = e.creg a
      ∧ sv.r1 = e.creg (a + 1#8) ∧ ∀ k, sv.env.creg k = e.creg k := by
  have hle : a.toNat + 1 ≤ 0x07 := by
    have h0 := refMapOk_le hmap ha
    have h1 := refMapOk_le hmap ha1
    bv_omega
  have hf : refFrame cfg (.read2 a) d e
      = .next ⟨if a = cfg.aRtdMsb then e.noteResultRead e.now else e, e.creg a, e.creg (a + 1#8)⟩ := by
    simp only [refFrame, refRead2, addrRd_of_mem hmap ha, if_pos hle]
  have hquiet : (if a = cfg.aRtdMsb then e.noteResultRead e.now else e).Quiet := by
    split
    · exact ⟨h.kind, h.transport, h.pending, h.injections⟩
    · exact h
  obtain ⟨sv, hs, hq, hr0, hr1, hcreg⟩ := h.serve hf hquiet ans
  refine ⟨sv, hs, hq, hr0, hr1, fun k => (hcreg k).trans ?_⟩
  show Env.creg (if _ then _ else _) k = _
  split <;> rfl

/-- A configuration byte without the fault-clear and the 1-shot bit is stored as it is, and nothing else happens
(R56). -/
theorem Env.Quiet.serve_write_config {cfg : Config} (hmap : cfg.refMapOk = true) {v : Byte}
    (hfclr : v &&& cfg.mFclr = 0#8) (hshot : v &&& cfg.m1Shot = 0#8) (ans : Answer) (d : Nat) :
    ∃ sv, Machine.serve cfg (.write cfg.aConfig v) ans d e = .next sv ∧ sv.env.Quiet
      ∧ ∀ k, sv.env.creg k = if k = cfg.aConfig then v else e.creg k := by
  have hf : refFrame cfg (.write cfg.aConfig v) d e
      = .next ⟨(e.noteConfigWrite cfg v (e.now + d)).setCreg cfg.aConfig v, 0#8, 0#8⟩ := by
    simp [refFrame, addrRd_of_mem hmap (a := cfg.aConfig) (by simp [Config.addresses]), refWrite_config hmap,
      refWriteConfig, hasBit_eq_false_iff.mpr hshot, Env.clearFaultStatus, hasBit_eq_false_iff.mpr hfclr,
      storedConfig]
  obtain ⟨sv, hs, hq, -, -, hcreg⟩ := h.serve hf ⟨h.kind, h.transport, h.pending, h.injections⟩ ans
  exact ⟨sv, hs, hq, fun k => (hcreg k).trans (creg_setCreg _ _ _ _)⟩

/-- A threshold byte is stored (R57). -/
theorem Env.Quiet.serve_write_threshold {cfg : Config} (hmap : cfg.refMapOk = true) {a : Byte}
    (ha : isThresholdAddr cfg a = true) (v : Byte) (ans : Answer) (d : Nat) :
    ∃ sv, Machine.serve cfg (.write a v) ans d e = .next sv ∧ sv.env.Quiet
      ∧ ∀ k, sv.env.creg k = if k = a then v else e.creg k := by
  have hmem : a ∈ cfg.addresses := by
    rcases isThresholdAddr_iff.mp ha with rfl | rfl | rfl | rfl <;> simp [Config.addresses]
  have hc : a ≠ cfg.aConfig := ne_aConfig_of_isThresholdAddr hmap ha
  have hf : refFrame cfg (.write a v) d e = .next ⟨e.setCreg a v, 0#8, 0#8⟩ := by
    simp only [refFrame, addrRd_of_mem hmap hmem, refWrite_threshold hmap hc ha]
  obtain ⟨sv, hs, hq, -, -, hcreg⟩ := h.serve hf (h.setCreg a v) ans
  exact ⟨sv, hs, hq, fun k => (hcreg k).trans (creg_setCreg _ _ _ _)⟩

end Quiet

end Sys2Proof.Machine
end

section
/-! PROOF. The setters of the configuration register in front of either environment (spec/42_configuration.md R113,
R115). -/

namespace Sys2Proof.Machine

theorem boolBitMod_outside (want : Bool) (m t : Byte) : boolBitMod want m t &&& ~~~m = t &&& ~~~m := by
  cases want
  · exact cfgClr_outside t m
  · exact cfgSet_outside t m

theorem boolBitMod_and_mask (want : Bool) (m t : Byte) :
    boolBitMod want m t &&& m = if want = true then m else 0#8 := by
  cases want
  · exact cfgClr_and_mask t m
  · exact cfgSet_and_mask t m

/-- Modifying one field leaves clear what another mask found clear (R85). -/
theorem boolBitMod_and_eq_zero {m n t : Byte} (hmn : m &&& n = 0#8) (ht : t &&& n = 0#8) (want : Bool) :
    boolBitMod want m t &&& n = 0#8 := by
  cases want
  · show t &&& ~~~m &&& n = 0#8
    rw [BitVec.and_assoc, BitVec.and_comm (~~~m), ← BitVec.and_assoc, ht, BitVec.zero_and]
  · show (t ||| m) &&& n = 0#8
    rw [BitVec.and_or_distrib_right, ht, hmn, BitVec.or_zero]

/-- The oracle serves every operation, records it, and stays the oracle (R52). -/
theorem exists_serve_oracle {e : Env} (hk : e.kind = .oracle) (cfg : Config) (f : Frame) (ans : Answer) (d : Nat) :
    ∃ sv, serve cfg f ans d e = .next sv ∧ sv.r0 = ans.r0 ∧ sv.env.kind = .oracle
      ∧ sv.env.history = e.history ++ [⟨frameEvent f sv.r0 sv.r1, e.now, e.now + d⟩] := by
  have hs := serve_oracle (cfg := cfg) (f := f) (ans := ans) (d := d) hk
  obtain ⟨hkind, -, hhist, -⟩ := serve_next hs
  exact ⟨_, hs, rfl, hkind.trans hk, hhist⟩

/-- Settles O41: the write sends the byte the oracle returned, with the one field modified. -/
theorem settersAlterOnlyTheirField : Obligations.SettersAlterOnlyTheirField := by
  intro i m want s ⟨hbusy, hreq, _, hkind⟩ hret hset
  obtain ⟨sv0, hread, hr0, hkind0, hhist0⟩ :=
    exists_serve_oracle hkind s.cfg (.read1 s.cfg.aConfig) (s.env.answerAt 0) (s.env.dur 0)
  obtain ⟨sv1, hwrite, -, -, hhist1⟩ := exists_serve_oracle hkind0 s.cfg
    (.write s.cfg.aConfig (boolBitMod want m sv0.r0)) (sv0.env.answerAt 0) (sv0.env.dur 0)
  obtain ⟨t, hexec, -, henv⟩ := SetsField.exec hset hbusy hreq hret hread hwrite
  have hbyte : sv0.r0 = s.env.byte0 0 := hr0
  have hhist : t.env.history = s.env.history ++
      [⟨frameEvent (.read1 s.cfg.aConfig) (s.env.byte0 0) sv0.r1, s.env.now, s.env.now + s.env.dur 0⟩,
        ⟨.write (addrWr s.cfg.aConfig) (boolBitMod want m (s.env.byte0 0)), sv0.env.now,
          sv0.env.now + sv0.env.dur 0⟩,
        ⟨.response 0x0000#16 .ok, sv1.env.now, sv1.env.elapseLag.now⟩] := by
    simp [henv, Env.record, Env.elapseLag, hhist1, hhist0, hbyte, frameEvent]
  exact ⟨t, _, _, _, _, _, _, _, hexec, hhist, boolBitMod_outside _ _ _, boolBitMod_and_mask _ _ _⟩

/-- Of the masks of the configuration register those a setter names are none of the fault-clear and the 1-shot bit. -/
theorem SetsField.mask_disjoint {cfg : Config} {i : Instr} {m : Byte} {want : Bool} (h : SetsField cfg i m want)
    (hwf : cfg.wf = true) : m &&& cfg.mFclr = 0#8 ∧ m &&& cfg.m1Shot = 0#8 := by
  have hdis := cfgMasks_disjoint hwf
  simp only [Config.cfgMasks, List.pairwise_cons, List.forall_mem_cons] at hdis
  obtain ⟨⟨-, hbiasShot, -, -, hbiasFclr, -⟩, ⟨hautoShot, -, -, hautoFclr, -⟩, ⟨hshotWire, -⟩,
    ⟨-, hwireFclr, -⟩, -⟩ := hdis
  obtain ⟨_, _, _, -, rfl, -⟩ | ⟨_, _, _, -, rfl, -⟩ | ⟨_, _, _, -, rfl, -⟩ := h
  · exact ⟨hbiasFclr, hbiasShot⟩
  · exact ⟨hautoFclr, hautoShot⟩
  · exact ⟨hwireFclr, (BitVec.and_comm _ _).trans hshotWire⟩

/-- Settles O43: the modified byte has neither bit with an effect of its own, so ENV-REF stores it and does no
more. -/
theorem configurationRoundTrip : Obligations.ConfigurationRoundTrip := by
  intro i m want s hready hret hfclr hshot hset
  have hquiet := hready.quiet
  obtain ⟨hbusy, hreq, -, -, -, -, -, hwf, hmap⟩ := hready
  obtain ⟨hmfclr, hmshot⟩ := SetsField.mask_disjoint hset hwf
  obtain ⟨sv0, hread, hquiet0, hr0, hcreg0⟩ := hquiet.serve_read1 hmap (a := s.cfg.aConfig)
    (by simp [Config.addresses]) (s.env.answerAt 0) (s.env.dur 0)
  rw [← hr0] at hfclr hshot
  obtain ⟨sv1, hwrite, -, hcreg1⟩ := hquiet0.serve_write_config hmap
    (boolBitMod_and_eq_zero hmfclr hfclr want) (boolBitMod_and_eq_zero hmshot hshot want)
    (sv0.env.answerAt 0) (sv0.env.dur 0)
  obtain ⟨t, hexec, hrsp, henv⟩ := SetsField.exec hset hbusy hreq hret hread hwrite
  have hcreg : ∀ k, t.env.creg k = sv1.env.creg k := fun k => by rw [henv]; rfl
  refine ⟨t, hexec, hrsp, ?_, fun k hk => ?_⟩
  · rw [hcreg, hcreg1, if_pos rfl, hr0]
    cases want <;> rfl
  · rw [hcreg, hcreg1, if_neg hk, hcreg0]

end Sys2Proof.Machine
end

section
/-! PROOF. The threshold commands in front of a quiet ENV-REF (spec/42_configuration.md R110 to R112, R114). -/

namespace Sys2Proof.Machine

/-- The block is ready for a command in front of a quiet ENV-REF, whose transport answers the next `n` operations. -/
structure RefIdle (cfg : Config) (n : Nat) (s : State) : Prop where
  busy : s.seq.busy = false
  tReq : s.port.tReq = false
  cfg_eq : s.cfg = cfg
  quiet : s.env.Quiet
  returns : s.env.returns n

theorem ReadyRef.refIdle {s : State} {n : Nat} (h : ReadyRef s) (hret : s.env.returns n) : RefIdle s.cfg n s := by
  have hquiet := h.quiet
  obtain ⟨hbusy, hreq, -⟩ := h
  exact ⟨hbusy, hreq, rfl, hquiet, hret⟩

/-- The response gives the block back, and no register moves with it (R22). -/
theorem Running.refIdle_respond {cfg : Config} {p : List Micro} {a b : Word} {k : BitVec 4} {s : State} {n : Nat}
    (h : Running cfg p a b k s) (hquiet : s.env.Quiet) (hret : s.env.returns n) (d : Word) (st : RspStatus) :
    RefIdle cfg n (Machine.respond d st s) :=
  ⟨rfl, h.tReq, h.cfg_eq, ⟨hquiet.kind, hquiet.transport, hquiet.pending, hquiet.injections⟩, hret⟩

/-- An entry that writes a threshold byte stores it (R57, R100). -/
theorem Running.writeThreshold {cfg : Config} {p : List Micro} {a b : Word} {k : BitVec 4} {s : State} {n : Nat}
    {addr byte : Byte} {v : WrData} (h : Running cfg p a b k s) (hquiet : s.env.Quiet)
    (hret : s.env.returns (n + 1)) (hmap : cfg.refMapOk = true) (hm : p[k.toNat]? = some (.wr8 addr v))
    (hv : v.eval cfg s.seq = .ok byte) (hthr : isThresholdAddr cfg addr = true) :
    ∃ t, Machine.microStep s = .next t ∧ Running cfg p a b (k + 1#4) t ∧ t.env.Quiet ∧ t.env.returns n
      ∧ ∀ j, t.env.creg j = if j = addr then byte else s.env.creg j := by
  obtain ⟨sv, hs, hq, hcreg⟩ :=
    hquiet.serve_write_threshold hmap hthr byte (s.env.answerAt 0) (s.env.dur 0)
  obtain ⟨t, hstep, hrun, henv, -⟩ := h.transact hm (frame_wr8 hv addr) (hret.duration (by omega)) hs
  exact ⟨t, hstep, hrun, henv ▸ hq, henv ▸ hret.of_serve hs, henv ▸ hcreg⟩

/-- The four threshold bytes are four registers. -/
theorem thresholdAddrs_nodup {cfg : Config} (h : cfg.refMapOk = true) :
    [cfg.aLthrLsb, cfg.aLthrMsb, cfg.aHthrLsb, cfg.aHthrMsb].Nodup := by
  simp only [Config.refMapOk, Bool.and_eq_true, decide_eq_true_eq] at h
  have hsub := (List.take_sublist 4 _).trans (List.drop_sublist 3 cfg.addresses)
  exact List.nodup_reverse.mpr (List.Nodup.sublist hsub h.2)

/-- SET_THRESHOLDS stores the four bytes of its two words (R110). -/
theorem exec_setThresholds {cfg : Config} {n : Nat} {s : State} (h : RefIdle cfg (n + 4) s)
    (hmap : cfg.refMapOk = true) (lower upper : Word) :
    ∃ t, exec (.setThresholds lower upper) s = .next t ∧ RefIdle cfg n t
      ∧ t.env.creg cfg.aLthrMsb = thrHi lower ∧ t.env.creg cfg.aLthrLsb = thrLo lower
      ∧ t.env.creg cfg.aHthrMsb = thrHi upper ∧ t.env.creg cfg.aHthrLsb = thrLo upper := by
  obtain ⟨hbusy, hreq, rfl, hquiet, hret⟩ := h
  have hexec : exec (.setThresholds lower upper) s = command 0x07#8 lower upper s := rfl
  have hrun0 : Running s.cfg (progSetThresholds s.cfg) lower upper 0#4 (accept 0x07#8 lower upper s) :=
    running_accept hreq 0x07#8 lower upper
  obtain ⟨s1, hstep0, hrun1, hquiet1, hret1, hcreg1⟩ := hrun0.writeThreshold (byte := thrLo lower)
    hquiet hret hmap rfl (by rw [WrData.eval, hrun0.a_eq]) (by simp [isThresholdAddr])
  obtain ⟨s2, hstep1, hrun2, hquiet2, hret2, hcreg2⟩ := hrun1.writeThreshold (byte := thrHi lower)
    hquiet1 hret1 hmap rfl (by rw [WrData.eval, hrun1.a_eq]) (by simp [isThresholdAddr])
  obtain ⟨s3, hstep2, hrun3, hquiet3, hret3, hcreg3⟩ := hrun2.writeThreshold (byte := thrLo upper)
    hquiet2 hret2 hmap rfl (by rw [WrData.eval, hrun2.b_eq]) (by simp [isThresholdAddr])
  obtain ⟨s4, hstep3, hrun4, hquiet4, hret4, hcreg4⟩ := hrun3.writeThreshold (byte := thrHi upper)
    hquiet3 hret3 hmap rfl (by rw [WrData.eval, hrun3.b_eq]) (by simp [isThresholdAddr])
  have hcreg : ∀ j, (Machine.respond 0x0000#16 .ok s4).env.creg j = s4.env.creg j := fun _ => rfl
  have hdistinct := thresholdAddrs_nodup hmap
  simp only [List.nodup_cons, List.mem_cons, not_or] at hdistinct
  refine ⟨Machine.respond 0x0000#16 .ok s4, ?_, hrun4.refIdle_respond hquiet4 hret4 _ _, ?_, ?_, ?_, ?_⟩
  · rw [hexec, command_ready hbusy, commandFuel, hrun0.runCommand hstep0, hrun1.runCommand hstep1,
      hrun2.runCommand hstep2, hrun3.runCommand hstep3]
    exact hrun4.respond rfl rfl _
  all_goals simp [hcreg, hcreg4, hcreg3, hcreg2, hcreg1, hdistinct]

/-- A command that reads a pair of registers responds with their word and changes no register (R111, R112). -/
theorem command_readPair {cfg : Config} {n : Nat} {s : State} (h : RefIdle cfg (n + 1) s)
    (hmap : cfg.refMapOk = true) {op : Byte} {a b : Word} {addr : Byte} (haddr : addr ∈ cfg.addresses)
    (haddr1 : addr + 1#8 ∈ cfg.addresses)
    (hprog : microProgram cfg (decodeFields op a b) = [.rd16 addr, .setRes .rWord, .respond .res .ok]) :
    ∃ t, command op a b s = .next t ∧ t.seq.rspData = wordJoin (s.env.creg addr) (s.env.creg (addr + 1#8))
      ∧ t.seq.rspStatus = .ok ∧ RefIdle cfg n t ∧ ∀ j, t.env.creg j = s.env.creg j := by
  obtain ⟨hbusy, hreq, rfl, hquiet, hret⟩ := h
  have hrun0 := running_accept hreq op a b
  rw [hprog] at hrun0
  obtain ⟨sv, hs, hq, hr0, hr1, hcreg⟩ :=
    hquiet.serve_read2 hmap haddr haddr1 (s.env.answerAt 0) (s.env.dur 0)
  obtain ⟨s1, hstep0, hrun1, henv1, hseq1⟩ := hrun0.transact rfl rfl (hret.duration (by omega)) hs
  have hword : ResSrc.rWord.eval s1.seq = .ok (wordJoin sv.r0 sv.r1) := by rw [hseq1]; rfl
  obtain ⟨hstep1, hrun2⟩ := hrun1.setRes rfl hword
  have hret1 := hret.of_serve hs
  rw [← henv1] at hq hret1
  refine ⟨Machine.respond (wordJoin sv.r0 sv.r1) .ok (setResult (wordJoin sv.r0 sv.r1) s1), ?_, ?_, rfl,
    hrun2.refIdle_respond ⟨hq.kind, hq.transport, hq.pending, hq.injections⟩ hret1 _ _, fun j => ?_⟩
  · rw [command_ready hbusy, commandFuel, hrun0.runCommand hstep0, hrun1.runCommand hstep1]
    exact hrun2.respond rfl rfl _
  · rw [← hr0, ← hr1]; rfl
  · rw [← hcreg, ← henv1]; rfl

/-- The low byte of a pair follows the high byte (R44). -/
theorem thrPair_of_wf {cfg : Config} (h : cfg.wf = true) :
    cfg.aHthrMsb + 1#8 = cfg.aHthrLsb ∧ cfg.aLthrMsb + 1#8 = cfg.aLthrLsb := by
  simp only [Config.wf, Config.pairsOk, Bool.and_eq_true, beq_iff_eq] at h
  obtain ⟨⟨⟨⟨-, ⟨-, hupper⟩, hlower⟩, -⟩, -⟩, -⟩ := h
  exact ⟨hupper.symm, hlower.symm⟩

/-- Settles O42: the two bytes stored of each word are the pair its read joins. -/
theorem thresholdRoundTrip : Obligations.ThresholdRoundTrip := by
  intro lower upper s hready hret
  have hidle := hready.refIdle hret
  obtain ⟨-, -, -, -, -, -, -, hwf, hmap⟩ := hready
  obtain ⟨hupper1, hlower1⟩ := thrPair_of_wf hwf
  obtain ⟨t, hexec, hidlet, hlhi, hllo, huhi, hulo⟩ := exec_setThresholds hidle hmap lower upper
  refine ⟨t, hexec, fun x y x' y' => ?_⟩
  obtain ⟨u, hexecu, hdatau, hstatusu, hidleu, hcregu⟩ :=
    command_readPair hidlet hmap (op := 0x08#8) (a := x) (b := y) (addr := s.cfg.aLthrMsb)
      (by simp [Config.addresses]) (by simp [hlower1, Config.addresses]) rfl
  obtain ⟨v, hexecv, hdatav, hstatusv, -, -⟩ :=
    command_readPair hidleu hmap (op := 0x09#8) (a := x') (b := y') (addr := s.cfg.aHthrMsb)
      (by simp [Config.addresses]) (by simp [hupper1, Config.addresses]) rfl
  refine ⟨u, v, hexecu, ?_, hstatusu, hexecv, ?_, hstatusv⟩
  · rw [hdatau, hlower1, hlhi, hllo, wordJoin_thr]
  · rw [hdatav, hupper1, hcregu, hcregu, huhi, hulo, wordJoin_thr]

end Sys2Proof.Machine
end

section
/-! PROOF. CLEAR_FAULT and READ_FAULT in front of ENV-REF. CLEAR_FAULT writes the 1-shot bit back when its clear mask
leaves it set, so a conversion may be pending when READ_FAULT follows (spec/43_fault.md R116, R117, R119). -/

namespace Sys2Proof.Machine

/-! ## The byte CLEAR_FAULT writes -/

/-- The bits CLEAR_FAULT leaves alone (R119). -/
def keptMask (cfg : Config) : Byte := cfg.mBias ||| cfg.m3Wire ||| cfg.mAuto ||| cfg.mFilt

theorem clearMaskPreserves_iff {cfg : Config} :
    cfg.clearMaskPreserves = true ↔ cfg.clearFaultClearMask &&& keptMask cfg = 0#8 := by
  rw [keptMask, BitVec.or_assoc cfg.mBias, BitVec.or_comm cfg.m3Wire, ← BitVec.or_assoc]
  exact beq_iff_eq

/-- The fault-clear and the fault-cycle bits are none of the kept ones (R6). -/
theorem keptMask_disjoint {cfg : Config} (h : cfg.wf = true) :
    cfg.mFclr &&& keptMask cfg = 0#8 ∧ cfg.mFcycle &&& keptMask cfg = 0#8 := by
  have hdis := cfgMasks_disjoint h
  simp only [Config.cfgMasks, List.pairwise_cons, List.forall_mem_cons] at hdis
  obtain ⟨⟨-, -, -, hbiasFcycle, hbiasFclr, -⟩, ⟨-, -, hautoFcycle, hautoFclr, -⟩, -,
    ⟨hwireFcycle, hwireFclr, -⟩, ⟨-, hfcycleFilt, -⟩, ⟨hfclrFilt, -⟩, -⟩ := hdis
  rw [BitVec.and_comm] at hbiasFcycle hbiasFclr hautoFcycle hautoFclr hwireFcycle hwireFclr
  simp only [keptMask, BitVec.and_or_distrib_left, BitVec.or_zero, and_self, *]

theorem cfgClr_and_of_disjoint {m n : Byte} (h : m &&& n = 0#8) (t : Byte) : cfgClr t m &&& n = t &&& n := by
  have hn : ~~~m &&& n = n := by
    calc ~~~m &&& n = m &&& n ||| ~~~m &&& n := by rw [h, BitVec.zero_or]
      _ = n := by rw [← BitVec.and_or_distrib_right, BitVec.or_not_self, BitVec.allOnes_and]
  rw [cfgClr, BitVec.and_assoc, hn]

theorem cfgSet_and_of_disjoint {m n : Byte} (h : m &&& n = 0#8) (t : Byte) : cfgSet t m &&& n = t &&& n := by
  rw [cfgSet, BitVec.and_or_distrib_right, h, BitVec.or_zero]

/-- CLEAR_FAULT's byte has the fault-clear bit, so ENV-REF clears the fault status (R56, R117). -/
theorem hasBit_clearFaultByte {cfg : Config} (h : cfg.wf = true) (t : Byte) :
    hasBit (clearFaultByte cfg t) cfg.mFclr = true := by
  have hone : Config.oneBit cfg.mFclr = true := flagMasks_oneBit h _ (by simp)
  rw [hasBit, clearFaultByte, cfgSet_and_mask]
  exact maskIf_ne_zero hone true

/-- Of CLEAR_FAULT's byte ENV-REF stores the kept bits as they were read: neither the clear mask nor what a
fault-clear write resets has one of them (R56, R117). -/
theorem storedConfig_clearFaultByte_and_kept {cfg : Config} (h : cfg.wf = true)
    (hclr : cfg.clearMaskPreserves = true) (t : Byte) :
    storedConfig cfg (clearFaultByte cfg t) &&& keptMask cfg = t &&& keptMask cfg := by
  obtain ⟨hfclr, hfcycle⟩ := keptMask_disjoint h
  rw [storedConfig, if_pos (hasBit_clearFaultByte h t), cfgClr_and_of_disjoint hfcycle,
    cfgClr_and_of_disjoint hfclr, clearFaultByte, cfgSet_and_of_disjoint hfclr,
    cfgClr_and_of_disjoint (clearMaskPreserves_iff.mp hclr)]

/-! ## ENV-REF with a conversion that may be pending -/

/-- The fault status is a register of its own (R36). -/
theorem refMapOk_fault_distinct {cfg : Config} (h : cfg.refMapOk = true) :
    cfg.aFault ≠ cfg.aConfig ∧ cfg.aFault ≠ cfg.aRtdMsb ∧ cfg.aFault ≠ cfg.aRtdLsb := by
  simp only [Config.refMapOk, Config.addresses, Bool.and_eq_true, decide_eq_true_eq, List.pairwise_cons] at h
  obtain ⟨-, hconfig, hmsb, hlsb, -⟩ := h
  exact ⟨(hconfig _ (by simp)).symm, (hmsb _ (by simp)).symm, (hlsb _ (by simp)).symm⟩

/-- A completing conversion leaves the fault status alone (R54). -/
theorem settle_creg_fault {cfg : Config} (h : cfg.refMapOk = true) (time : Nat) (e : Env) :
    (e.settle cfg time).creg cfg.aFault = e.creg cfg.aFault := by
  obtain ⟨hconfig, hmsb, hlsb⟩ := refMapOk_fault_distinct h
  unfold Env.settle
  split
  · split
    · rw [completeConversion_creg, if_neg hconfig, if_neg hlsb, if_neg hmsb]
    · rfl
  · rfl

/-- An initialised ENV-REF with no fault about to be injected; a conversion may be pending. -/
structure Env.Serving (e : Env) : Prop where
  kind : e.kind = .envRef
  transport : e.transport = .ready
  injections : e.injections = []

/-- A read of the fault status is served, whether or not it settles a conversion (R54, R55). -/
theorem Env.Serving.serve_readFault {e : Env} (h : e.Serving) {cfg : Config} (hmap : cfg.refMapOk = true)
    (ans : Answer) (d : Nat) :
    ∃ sv, serve cfg (.read1 cfg.aFault) ans d e = .next sv ∧ sv.r0 = e.creg cfg.aFault := by
  have ha : cfg.aFault ∈ cfg.addresses := by simp [Config.addresses]
  have hf : refServe cfg (.read1 cfg.aFault) d e = .next ⟨e.settle cfg e.now, e.creg cfg.aFault, 0#8⟩ := by
    simp [refServe, h.transport, Env.injectNext, h.injections, refFrame, refRead1, addrRd_of_mem hmap ha,
      refMapOk_le hmap ha, settle_creg_fault hmap]
  exact ⟨_, serve_envRef_next h.kind hf, rfl⟩

theorem refWriteConfig_injections {cfg : Config} {v : Byte} {ended : Nat} {e : Env} {sv : Served}
    (h : refWriteConfig cfg v ended e = .next sv) : sv.env.injections = e.injections := by
  have hclear : ((e.noteConfigWrite cfg v ended).clearFaultStatus cfg v).injections = e.injections := by
    unfold Env.clearFaultStatus
    split <;> rfl
  obtain ⟨-, -, he⟩ | ⟨-, he⟩ := refWriteConfig_next h <;> exact he ▸ hclear

/-- While no conversion is pending every configuration write is served (R56). -/
theorem Env.Quiet.serve_anyConfigWrite {e : Env} (h : e.Quiet) {cfg : Config} (hmap : cfg.refMapOk = true)
    (v : Byte) (ans : Answer) (d : Nat) :
    ∃ sv, Machine.serve cfg (.write cfg.aConfig v) ans d e = .next sv ∧ sv.env.Serving
      ∧ ∀ k, sv.env.creg k = if k = cfg.aConfig then storedConfig cfg v
          else if hasBit v cfg.mFclr = true ∧ k = cfg.aFault then 0x00#8 else e.creg k := by
  obtain ⟨sv, hw⟩ := refWriteConfig_served (cfg := cfg) (v := v) (.inr h.pending) (e.now + d)
  have hf : refFrame cfg (.write cfg.aConfig v) d e = .next sv := by
    rw [refFrame, addrRd_of_mem hmap (by simp [Config.addresses]), refWrite_config hmap, hw]
  have hs := serve_envRef_next (ans := ans) h.kind ((h.refServe cfg _ d).trans hf)
  have hcreg := refWriteConfig_creg hw
  exact ⟨_, hs, ⟨(refWriteConfig_frame hw).kind.trans h.kind, (refWriteConfig_transport hw).trans h.transport,
    (refWriteConfig_injections hw).trans h.injections⟩, hcreg⟩

/-! ## The two commands -/

/-- The block is ready for a command in front of a serving ENV-REF, whose transport answers the next `n`
operations. -/
structure RefServing (cfg : Config) (n : Nat) (s : State) : Prop where
  busy : s.seq.busy = false
  tReq : s.port.tReq = false
  cfg_eq : s.cfg = cfg
  serving : s.env.Serving
  returns : s.env.returns n

/-- The byte CLEAR_FAULT sends is the one R117 makes of the byte its first entry read. -/
theorem eval_clearFaultT {cfg : Config} {q : Seq} (h : q.tLive = true) :
    WrData.clearFaultT.eval cfg q = .ok (clearFaultByte cfg q.t) := by
  simp [WrData.eval, readT, h, Except.map]

/-- CLEAR_FAULT stores its byte and leaves the fault status 0 (R56, R117). -/
theorem exec_clearFault {cfg : Config} {n : Nat} {s : State} (h : RefIdle cfg (n + 2) s) (hwf : cfg.wf = true)
    (hmap : cfg.refMapOk = true) (x y : Word) :
    ∃ t, exec (.clearFault x y) s = .next t ∧ RefServing cfg n t
      ∧ t.env.creg cfg.aConfig = storedConfig cfg (clearFaultByte cfg (s.env.creg cfg.aConfig))
      ∧ t.env.creg cfg.aFault = 0x00#8 := by
  obtain ⟨hbusy, hreq, rfl, hquiet, hret⟩ := h
  have hexec : exec (.clearFault x y) s = command 0x03#8 x y s := rfl
  have hrun0 : Running s.cfg (progClearFault s.cfg) x y 0#4 (accept 0x03#8 x y s) := running_accept hreq 0x03#8 x y
  obtain ⟨sv0, hread, hquiet0, hr0, -⟩ := hquiet.serve_read1 hmap (a := s.cfg.aConfig) (by simp [Config.addresses])
    (s.env.answerAt 0) (s.env.dur 0)
  obtain ⟨s1, hstep0, hrun1, henv1, hseq1⟩ := hrun0.transact rfl rfl (hret.duration (by omega)) hread
  have hv : WrData.clearFaultT.eval s.cfg s1.seq = .ok (clearFaultByte s.cfg sv0.r0) := by
    rw [eval_clearFaultT (by rw [hseq1]; rfl), hseq1]; rfl
  have hret1 := hret.of_serve hread
  rw [← henv1] at hquiet0 hret1
  obtain ⟨sv1, hwrite, hserving, hcreg⟩ := hquiet0.serve_anyConfigWrite hmap (clearFaultByte s.cfg sv0.r0)
    (s1.env.answerAt 0) (s1.env.dur 0)
  obtain ⟨s2, hstep1, hrun2, henv2, -⟩ :=
    hrun1.transact rfl (frame_wr8 hv _) (hret1.duration (by omega)) hwrite
  have hret2 := hret1.of_serve hwrite
  rw [← henv2] at hserving hret2 hcreg
  have hrsp : ∀ k, (Machine.respond 0x0000#16 .ok s2).env.creg k = s2.env.creg k := fun _ => rfl
  refine ⟨Machine.respond 0x0000#16 .ok s2, ?_,
    ⟨rfl, hrun2.tReq, hrun2.cfg_eq, ⟨hserving.kind, hserving.transport, hserving.injections⟩, hret2⟩, ?_, ?_⟩
  · rw [hexec, command_ready hbusy, commandFuel, hrun0.runCommand hstep0, hrun1.runCommand hstep1]
    exact hrun2.respond rfl rfl _
  · rw [hrsp, hcreg, if_pos rfl, hr0]
  · rw [hrsp, hcreg, if_neg (refMapOk_fault_distinct hmap).1, if_pos ⟨hasBit_clearFaultByte hwf _, rfl⟩]

/-- READ_FAULT responds with the fault status (R116). -/
theorem exec_readFault {cfg : Config} {n : Nat} {s : State} (h : RefServing cfg (n + 1) s)
    (hmap : cfg.refMapOk = true) (x y : Word) :
    ∃ t, exec (.readFault x y) s = .next t ∧ t.seq.rspData = (s.env.creg cfg.aFault).setWidth 16 := by
  obtain ⟨hbusy, hreq, rfl, hserving, hret⟩ := h
  have hexec : exec (.readFault x y) s = command 0x02#8 x y s := rfl
  have hrun0 : Running s.cfg (progReadFault s.cfg) x y 0#4 (accept 0x02#8 x y s) := running_accept hreq 0x02#8 x y
  obtain ⟨sv, hread, hr0⟩ := hserving.serve_readFault hmap (s.env.answerAt 0) (s.env.dur 0)
  obtain ⟨s1, hstep0, hrun1, -, hseq1⟩ := hrun0.transact rfl rfl (hret.duration (by omega)) hread
  have hword : ResSrc.tExtended.eval s1.seq = .ok (sv.r0.setWidth 16) := by rw [hseq1]; rfl
  obtain ⟨hstep1, hrun2⟩ := hrun1.setRes rfl hword
  refine ⟨Machine.respond (sv.r0.setWidth 16) .ok (setResult (sv.r0.setWidth 16) s1), ?_, hr0 ▸ rfl⟩
  rw [hexec, command_ready hbusy, commandFuel, hrun0.runCommand hstep0, hrun1.runCommand hstep1]
  exact hrun2.respond rfl rfl _

/-- An injected fault leaves the block as ready as it was (R59). -/
theorem RefIdle.injectFault {cfg : Config} {n : Nat} {s : State} (h : RefIdle cfg n s) (m : Byte) :
    RefIdle cfg n { s with env := s.env.injectFault cfg m } :=
  ⟨h.busy, h.tReq, h.cfg_eq, h.quiet.setCreg _ _, h.returns⟩

/-- Settles O44: the injected fault is in a register CLEAR_FAULT resets, and the byte CLEAR_FAULT stores has the kept
bits of the byte it read. -/
theorem faultClearIsIdempotent : Obligations.FaultClearIsIdempotent := by
  intro m x y x' y' s hready hret hclr
  have hidle := (hready.refIdle hret).injectFault m
  obtain ⟨-, -, -, -, -, -, -, hwf, hmap⟩ := hready
  have hconfig : (s.env.injectFault s.cfg m).creg s.cfg.aConfig = s.env.creg s.cfg.aConfig := by
    rw [Env.injectFault, creg_setCreg, if_neg (refMapOk_fault_distinct hmap).1.symm]
  obtain ⟨t, hexec, hserving, hstored, hfault⟩ := exec_clearFault hidle hwf hmap x y
  obtain ⟨u, hexecu, hdata⟩ := exec_readFault hserving hmap x' y'
  refine ⟨t, u, hexec, ?_, hexecu, by rw [hdata, hfault]; rfl⟩
  rw [hstored, hconfig]
  exact storedConfig_clearFaultByte_and_kept hwf hclr _

end Sys2Proof.Machine
end
section
/-! PROOF. Encoding and decoding undo each other at each of the three ports (spec/30_encoding.md R65 to R76), and a
word placed at its port is the one the next step runs. -/

namespace Sys2Proof

/-! ## The command port -/

theorem decodeCmd_cmdWord (op : Byte) (a b : Word) : decodeCmd (cmdWord op a b) = decodeFields op a b := by
  simp [decodeCmd]

/-- The operand code and the bits above it make up A (R66). -/
theorem wireField_fields (a : Word) : wireField (a.extractLsb' 2 14) (a.extractLsb' 0 2) = a := by
  apply BitVec.eq_of_getLsbD_eq
  intro i hi
  simp only [wireField, BitVec.getLsbD_append, BitVec.getLsbD_extractLsb']
  split
  · simp [*]
  · rw [decide_eq_true (by omega), Bool.true_and]
    congr 1
    omega

/-- The Boolean operand and the bits above it make up A (R67). -/
theorem boolField_fields (a : Word) : boolField (a.extractLsb' 1 15) (a.getLsbD 0) = a := by
  apply BitVec.eq_of_getLsbD_eq
  intro i hi
  simp only [boolField, boolBit, BitVec.getLsbD_append, BitVec.getLsbD_extractLsb']
  split
  · have h0 : i = 0 := by omega
    simp [h0]
  · rw [decide_eq_true (by omega), Bool.true_and]
    congr 1
    omega

/-- The operand code of a word of BEGIN or SET_WIRES, put back below the bits above it. -/
theorem wireField_of_code {a : Word} {m : BitVec 2} (h : a.extractLsb' 0 2 = m) :
    wireField (a.extractLsb' 2 14) m = a := by
  rw [← h, wireField_fields]

/-- No bit of `op`, `A` and `B` is lost in the instruction they decode to (R69, R71). -/
theorem encode_decodeFields (op : Byte) (a b : Word) : encode (decodeFields op a b) = .cmd (cmdWord op a b) := by
  obtain ⟨c, rfl⟩ : ∃ c, op = opcodeOf c := ⟨classifyOp op, (opcodeOf_classifyOp op).symm⟩
  cases c with
  | beginOp =>
    obtain h | ⟨mode, h⟩ := wireCode_cases (a.extractLsb' 0 2)
    · simp [opcodeOf, decodeFields_begin_reserved b h, encode, wireField_of_code h]
    · simp [opcodeOf, decodeFields_begin_of_code b h, encode, wireField_of_code h]
  | setWires =>
    obtain h | ⟨mode, h⟩ := wireCode_cases (a.extractLsb' 0 2)
    · simp [opcodeOf, decodeFields_setWires_reserved b h, encode, wireField_of_code h]
    · simp [opcodeOf, decodeFields_setWires_of_code b h, encode, wireField_of_code h]
  | enableBias | autoConvert =>
    rw [decodeFields, classifyOp_opcodeOf]
    simp only [encode, boolField_fields, opcodeOf]
  | _ => rw [decodeFields, classifyOp_opcodeOf]; rfl

/-! ## The transport port and the codec -/

/-- A read frame's address byte has bit 7 clear and the address below it (R72). -/
theorem readByte_fields (a : RegAddr) : (readByte a).getLsbD 7 = false ∧ (readByte a).extractLsb' 0 7 = a := by
  revert a; decide

/-- A write frame's address byte has bit 7 set and the address below it (R73). -/
theorem writeByte_fields (a : RegAddr) : (writeByte a).getLsbD 7 = true ∧ (writeByte a).extractLsb' 0 7 = a := by
  revert a; decide

theorem decode_readFrame1 (a : RegAddr) : decode (readFrame a 1#2) = .ok (decodeRead1 a) := by
  obtain ⟨hmark, haddr⟩ := readByte_fields a
  simp only [decode, readFrame, decodeTport, hmark, haddr]
  rfl

theorem decode_readFrame2 (a : RegAddr) : decode (readFrame a 2#2) = .ok (decodeRead2 a) := by
  obtain ⟨hmark, haddr⟩ := readByte_fields a
  simp only [decode, readFrame, decodeTport, hmark, haddr]
  rfl

theorem decode_writeFrame (a : RegAddr) (v : Byte) : decode (writeFrame a v) = .ok (decodeWrite a v) := by
  obtain ⟨hmark, haddr⟩ := writeByte_fields a
  simp only [decode, writeFrame, decodeTport, hmark, haddr]
  rfl

/-- A register byte is wide enough for its layout, and is read back (R76). -/
theorem codecByte_fields (c : Byte) : (codecByte c).extractLsb' 8 8 = 0#8 ∧ (codecByte c).extractLsb' 0 8 = c := by
  revert c; decide

theorem decodeRead1_of_addrOk {a : RegAddr} (h : rd8AddrOk a = true) : decodeRead1 a = .rd8 a := by
  have hne : a ≠ 0x00#7 ∧ a ≠ 0x07#7 := by simpa [rd8AddrOk] using h
  simp [decodeRead1, hne]

theorem decodeRead2_of_addrOk {a : RegAddr} (h : rd16AddrOk a = true) : decodeRead2 a = .rd16 a := by
  have hne : (a ≠ 0x01#7 ∧ a ≠ 0x03#7) ∧ a ≠ 0x05#7 := by simpa [rd16AddrOk] using h
  simp [decodeRead2, hne]

theorem decodeWrite_of_addrOk {a : RegAddr} (h : wr8AddrOk a = true) (v : Byte) : decodeWrite a v = .wr8 a v := by
  have hne : (((a ≠ 0x00#7 ∧ a ≠ 0x03#7) ∧ a ≠ 0x04#7) ∧ a ≠ 0x05#7) ∧ a ≠ 0x06#7 := by
    simpa [wr8AddrOk] using h
  simp [decodeWrite, hne]

end Sys2Proof

namespace Sys2Proof.Machine

/-! ## The round trips -/

/-- Settles O1: at the command port by the opcode's class, at the transport port by the address, which for a
well-formed general frame is none of the named ones. -/
theorem encodeThenDecode : Obligations.EncodeThenDecode := by
  intro i hwf
  cases i with
  | beginCmd mode x b => exact congrArg Except.ok ((decodeCmd_cmdWord _ _ _).trans (decodeFields_begin mode x b))
  | setWires mode x b => exact congrArg Except.ok ((decodeCmd_cmdWord _ _ _).trans (decodeFields_setWires mode x b))
  | enableBias on x b => exact congrArg Except.ok ((decodeCmd_cmdWord _ _ _).trans (decodeFields_enableBias on x b))
  | autoConvert on x b => exact congrArg Except.ok ((decodeCmd_cmdWord _ _ _).trans (decodeFields_autoConvert on x b))
  | illegalBeginMode3 x b =>
    simp [encode, decode, decodeCmd_cmdWord, decodeFields_begin_reserved b (wireField_code x 3#2)]
  | illegalSetWiresMode3 x b =>
    simp [encode, decode, decodeCmd_cmdWord, decodeFields_setWires_reserved b (wireField_code x 3#2)]
  | readRtd a b | readFault a b | clearFault a b | setThresholds a b | getLowerThreshold a b
  | getUpperThreshold a b =>
    simp [encode, decode, decodeCmd_cmdWord]
  | illegalOp0A0B low a b | illegalOp0C0F low a b | illegalOp101F low a b | illegalOp203F low a b
  | illegalOp407F low a b | illegalOp80FF low a b =>
    simp only [encode, decode, decodeCmd_cmdWord, decodeFields, classifyOp_opcodeOf]
  | rd8 a => exact (decode_readFrame1 a).trans (congrArg _ (decodeRead1_of_addrOk hwf))
  | rd16 a => exact (decode_readFrame2 a).trans (congrArg _ (decodeRead2_of_addrOk hwf))
  | wr8 a v => exact (decode_writeFrame a v).trans (congrArg _ (decodeWrite_of_addrOk hwf v))
  | initTransport => rfl
  | frameRdConfig | frameRdFault => exact decode_readFrame1 _
  | frameRdRtd | frameRdHthr | frameRdLthr => exact decode_readFrame2 _
  | frameWrConfig v | frameWrHthrMsb v | frameWrHthrLsb v | frameWrLthrMsb v | frameWrLthrLsb v =>
    exact decode_writeFrame _ v
  | configReg c | faultReg c =>
    obtain ⟨hwide, hbyte⟩ := codecByte_fields c
    simp [encode, decode, decodeCodec, hwide, hbyte]
  | rtdWord w | thresholdWord w => rfl

/-- A placed word is the next step's, and a word of the command port is taken from the host (log 2). -/
theorem step_place (w : PortWord) (s : State) :
    step (place w s) = runWord w { place w s with host := s.host } := by
  cases w <;> rfl

/-- A request that no rule of R28, R72 and R73 gives is rejected by the name of what is wrong with it. -/
theorem decodeTport_rejects (kind : BitVec 2) (w0 w1 : Byte) (rlen : BitVec 2) :
    (kind = 3#2 → decodeTport kind w0 w1 rlen = .error .kindNeverDriven)
      ∧ (kind = 0#2 → rlen ≠ 0#2 → decodeTport kind w0 w1 rlen = .error .badReadLength)
      ∧ (kind = 1#2 → w0.getLsbD 7 = false → decodeTport kind w0 w1 rlen = .error .badAddressMark)
      ∧ (kind = 1#2 → w0.getLsbD 7 = true → rlen ≠ 0#2 → decodeTport kind w0 w1 rlen = .error .badReadLength)
      ∧ (kind = 2#2 → w0.getLsbD 7 = true → decodeTport kind w0 w1 rlen = .error .badAddressMark)
      ∧ (kind = 2#2 → w0.getLsbD 7 = false → rlen ≠ 1#2 → rlen ≠ 2#2 →
        decodeTport kind w0 w1 rlen = .error .badReadLength) := by
  refine ⟨?_, ?_, ?_, ?_, ?_, ?_⟩ <;> rintro rfl <;> intros <;> simp only [decodeTport, *] <;> rfl

theorem decodeCodec_rejects {w : Word} (h : w.extractLsb' 8 8 ≠ 0#8) :
    decodeCodec .config w = .error .layoutTooWide ∧ decodeCodec .fault w = .error .layoutTooWide := by
  simp [decodeCodec, h]

/-- Settles O2: an opcode is the opcode of its class, A its operand and the bits above it. -/
theorem commandWordsLoseNoBit : Obligations.CommandWordsLoseNoBit := by
  refine ⟨fun w => ?_, decodeTport_rejects, fun w hw => decodeCodec_rejects hw, fun p e s hp => ?_⟩
  · rw [decodeCmd, encode_decodeFields, cmdWord_fields]
  · rw [step_place, runWord, hp]

/-- Settles O5: each is one word, and the decoder is a function. -/
theorem specWordsDecode : Obligations.SpecWordsDecode := by
  unfold Obligations.SpecWordsDecode
  decide

/-- Settles O15: the placed word is the instruction's, and decoding it gives the instruction back. -/
theorem placedWordRunsNext : Obligations.PlacedWordRunsNext := by
  intro i s hwf
  have hstep : step (place (encode i) s) = exec i { place (encode i) s with host := s.host } := by
    rw [step_place, runWord, encodeThenDecode i hwf]
  refine ⟨fun _ _ => hstep, fun hnone => hstep.trans ?_⟩
  rw [commandFields] at hnone
  cases hw : encode i with
  | cmd w => simp [hw] at hnone
  | tport kind w0 w1 rlen => rfl
  | codec sel v => rfl

end Sys2Proof.Machine
end
section
/-! PROOF. What each kind of step does on its own: the codec (spec/40_codec.md), the ports in the order of
spec/60_exceptions.md R142, the reset (spec/70_reset_and_hazards.md R151, R152, R156) and the delay
(spec/41_bus_primitives.md R101). -/

namespace Sys2Proof.Machine

/-! ## The codec -/

/-- The index `lowbit` gives of two adjacent bits is that of the least significant bit set (R82). -/
theorem lowbit_is_least {m : Byte} (h : Config.twoAdjacentBits m = true) :
    m.getLsbD (lowbit m) = true ∧ ∀ k < lowbit m, m.getLsbD k = false := by
  obtain ⟨k, hk, rfl⟩ := twoAdjacentBits_iff.mp h
  rw [lowbit_of_adjacent hk]
  revert k; decide

/-- Settles O10: the step is CFG_UNPACK, and of two adjacent bits `lowbit` finds the lower. -/
theorem configLayoutShowsItsFields : Obligations.ConfigLayoutShowsItsFields :=
  fun _ _ => ⟨rfl, fun hwf => lowbit_is_least (fcycleMask_adjacent hwf)⟩

/-- Settles O11: the step is FAULT_UNPACK. -/
theorem faultLayoutShowsItsFields : Obligations.FaultLayoutShowsItsFields := fun _ _ => rfl

/-- Settles O12: the step is RTD_SPLIT, whose code is half the word. -/
theorem resultLayoutShowsCodeAndFlag : Obligations.ResultLayoutShowsCodeAndFlag := by
  intro w s
  have hhalf := rtdCode_toNat w
  exact ⟨rtdCode w, rfl, rfl, hhalf, by omega⟩

/-- Settles O13: the step is THR_SPLIT, whose bytes join to the word. -/
theorem thresholdLayoutShowsItsBytes : Obligations.ThresholdLayoutShowsItsBytes :=
  fun v _ => ⟨thrLo v, thrHi v, rfl, rfl, rfl, wordJoin_thr v, rfl⟩

/-! ## The ports -/

section Ports
variable {s : State} (hrst : s.rst = false)
include hrst

theorem step_codec {sel : CodecSel} {w : Word} (h : s.codecIn = some (sel, w)) :
    step s = runWord (.codec sel w) s := by
  simp [step, fetch, hrst, h]

section NoCodec
variable (hcodec : s.codecIn = none)
include hcodec

theorem step_handshake (h : s.port.tReq = true) : step s = runWord s.port.word s := by
  simp [step, fetch, hrst, hcodec, h]

section PortAtRest
variable (hreq : s.port.tReq = false)
include hreq

theorem step_busy (h : s.seq.busy = true) : step s = continueCommand s := by
  simp [step, fetch, hrst, hcodec, hreq, h]

section Ready
variable (hbusy : s.seq.busy = false)
include hbusy

theorem step_idle (h : s.host = []) : step s = .next (tick s) := by
  simp [step, fetch, hrst, hcodec, hreq, hbusy, fetchCommand, h]

theorem step_wait {n : Nat} {rest : List HostAction} (h : s.host = .wait n :: rest) :
    step s = .next (hostWait n rest s) := by
  simp [step, fetch, hrst, hcodec, hreq, hbusy, fetchCommand, h]

/-- In the command grain a presented word is taken and run (R26, log 1). -/
theorem step_command {w : CmdWord} {rest : List HostAction} (h : s.host = .present w :: rest)
    (hgrain : s.grain = .command) : step s = exec (decodeCmd w) (s.setHost rest) := by
  simp [step, fetch, hrst, hcodec, hreq, hbusy, fetchCommand, h, hgrain, runWord, decode]

/-- In a finer grain the step is the acceptance (R26, log 1). -/
theorem step_accept {w : CmdWord} {rest : List HostAction} (h : s.host = .present w :: rest)
    (hgrain : s.grain ≠ .command) :
    step s = .next (accept (cmdOp w) (cmdA w) (cmdB w) (s.setHost rest)) := by
  cases hg : s.grain with
  | command => exact absurd hg hgrain
  | micro | edge => simp [step, fetch, hrst, hcodec, hreq, hbusy, fetchCommand, h, hg]

end Ready
end PortAtRest
end NoCodec
end Ports

theorem runWord_of_decode {p : PortWord} {i : Instr} (h : decode p = .ok i) (s : State) :
    runWord p s = exec i s := by
  rw [runWord, h]

/-- Settles O14: whichever port comes first in R142's order, the step runs its word. -/
theorem stepRunsTheDecodedInstruction : Obligations.StepRunsTheDecodedInstruction := by
  refine fun s hrst => ⟨fun sel w i hin hdec => ?_, fun i hcodec hreq hdec => ?_,
    fun w rest hcodec hreq hbusy hgrain hhost => ?_⟩
  · rw [step_codec hrst hin, runWord_of_decode hdec]
  · rw [step_handshake hrst hcodec hreq, runWord_of_decode hdec]
  · exact step_command hrst hcodec hreq hbusy hhost hgrain

/-- Settles O16: the step is the acceptance. -/
theorem acceptanceLatchesTheWord : Obligations.AcceptanceLatchesTheWord :=
  fun _ _ _ hrst hcodec hreq hbusy hgrain hhost => step_accept hrst hcodec hreq hbusy hhost hgrain

/-- Settles O60: a tick, or the host's wait. -/
theorem idleStepOnlyLetsTimePass : Obligations.IdleStepOnlyLetsTimePass :=
  fun _ hrst hcodec hreq hbusy => ⟨step_idle hrst hcodec hreq hbusy, fun _ _ => step_wait hrst hcodec hreq hbusy⟩

/-- A command word or an illegal one is run by acceptance of its three fields (R26). -/
theorem exec_of_commandFields {i : Instr} {op : Byte} {a b : Word} (h : commandFields i = some (op, a, b))
    (s : State) : exec i s = command op a b s := by
  have hword : ∀ op' a' b', encode i = .cmd (cmdWord op' a' b') → command op' a' b' s = command op a b s := by
    intro op' a' b' hw
    simp only [commandFields, hw, cmdOp_cmdWord, cmdA_cmdWord, cmdB_cmdWord, Option.some.injEq,
      Prod.mk.injEq] at h
    obtain ⟨rfl, rfl, rfl⟩ := h
    rfl
  cases i with
  | beginCmd | readRtd | readFault | clearFault | enableBias | autoConvert | setWires | setThresholds
  | getLowerThreshold | getUpperThreshold | illegalBeginMode3 | illegalSetWiresMode3 | illegalOp0A0B
  | illegalOp0C0F | illegalOp101F | illegalOp203F | illegalOp407F | illegalOp80FF => exact hword _ _ _ rfl
  | _ => cases h

/-- Settles O17: what a busy block does is its command's or its handshake's business, and neither touches the host's
list; a command word on a busy block is not taken. -/
theorem busyBlockTakesNoCommand : Obligations.BusyBlockTakesNoCommand := by
  refine fun s hbusy => ⟨fun t h => ?_, fun i ⟨op, a, b⟩ hf => ?_⟩
  · obtain ⟨-, rfl⟩ | ⟨-, _, _, i, -, -, hexec⟩ | ⟨-, -, -, i, -, hexec⟩ | ⟨-, -, -, -, hcont⟩
      | ⟨-, -, -, hidle, -⟩ := step_next h
    · rfl
    · obtain ⟨-, -, -, hhost, -⟩ := exec_keeps hexec
      exact hhost
    · obtain ⟨-, -, -, hhost, -⟩ := exec_keeps hexec
      exact hhost
    · exact (continueCommand_rest hcont).host
    · exact absurd hbusy (by simp [hidle])
  · rw [exec_of_commandFields hf, command_busy hbusy]

/-! ## Reset -/

theorem step_reset {s : State} (h : s.rst = true) : step s = .next (applyReset s) := by
  simp [step, fetch, h]

/-- Settles O18: the step is the reset, and of an idle block's environment it is the clock and the transport alone. -/
theorem resetWinsAndClears : Obligations.ResetWinsAndClears := by
  intro s hrst
  refine ⟨applyReset s, step_reset hrst, rfl, rfl, rfl, rfl, rfl, rfl, rfl, rfl, rfl, afterReset_now _ _ _,
    (afterReset_keeps _ _ _).2.1, fun hbusy hreq => ?_⟩
  show s.env.afterReset s.seq.busy s.port.tReq = _
  rw [hbusy, hreq]
  rfl

/-- Settles O19: what an interrupting reset leaves of the environment (R156). -/
theorem resetWhileBusyForgetsTheChip : Obligations.ResetWhileBusyForgetsTheChip := by
  intro s hrst hinterrupted
  have henv : (applyReset s).env = (s.env.dropHandshake s.port.tReq).restartClock.unspecify :=
    afterReset_interrupted (by simpa using hinterrupted) s.env
  refine ⟨applyReset s, step_reset hrst, rfl, rfl, rfl, by rw [henv]; rfl, fun a => by rw [henv]; rfl,
    fun hreq k => ?_, fun hreq k => ?_, by rw [henv]; rfl, (afterReset_keeps _ _ _).2.1, afterReset_now _ _ _⟩
  · show (s.env.afterReset s.seq.busy s.port.tReq).answerAt k = _
    rw [hreq]
    exact afterReset_answerAt_open _ _ k
  · show (s.env.afterReset s.seq.busy s.port.tReq).answerAt k = _
    rw [hreq]
    exact afterReset_answerAt_closed _ _ k

/-- The invariant of a block that executes no command. -/
theorem seqInv_of_idle {s : State} (hbusy : s.seq.busy = false) (hupc : s.seq.upc = 0#4) (htmr : s.seq.tmr = 0)
    (hphase : s.seq.phase = .idle) (hreq : s.port.tReq = false) : SeqInv s :=
  ⟨fun _ => ⟨hupc, htmr, hphase, hreq⟩, fun h => absurd h (by simp [hbusy])⟩

/-- Settles O20: the values are the model's, and an idle block with nothing written meets the invariant. -/
theorem resetStateIsIdle : Obligations.ResetStateIsIdle :=
  ⟨rfl, rfl, rfl, rfl, rfl, rfl, rfl, rfl, rfl, rfl, rfl, rfl, rfl, rfl, rfl, seqInv_of_idle rfl rfl rfl rfl rfl, rfl⟩

/-! ## The delay -/

/-- The edge that brings TMR to 0 is a tick, and it ends the delay (R101). -/
theorem delayEdge_last {s : State} (h : s.seq.tmr = 1) (n : Nat) : delayEdge n s = endDelay n (tick s) := by
  simp [delayEdge, h]

/-- Settles O48: as a micro-step the `n` ticks at once; as edges the load, the ticks above 1, and the last one. -/
theorem delayLastsItsTicks : Obligations.DelayLastsItsTicks := by
  intro n s hn
  refine ⟨fun h => ?_, fun h => ?_, fun h => ?_, fun h => ?_⟩
  · simp [delay, endDelay, delayLeft, h, Env.record, Seq.setTmr, Seq.finish, Seq.phaseNext, Seq.inReadRtd,
      State.setEnv]
  · have hne : n ≠ 0 := by omega
    simp only [delayEdge, h, if_pos, if_neg hne]
    rfl
  · have h0 : s.seq.tmr ≠ 0 := by omega
    have h1 : s.seq.tmr ≠ 1 := by omega
    simp only [delayEdge, if_neg h0, if_neg h1]
    rfl
  · rw [delayEdge_last h]
    exact ⟨rfl, rfl, rfl, rfl, rfl⟩

end Sys2Proof.Machine
end
section
/-! PROOF. The transport micro-operations one at a time (spec/41_bus_primitives.md R97 to R100): which request each
one raises, and what becomes of it in front of the oracle and in front of ENV-REF. -/

namespace Sys2Proof.Machine

/-! ## A request and the instruction that makes it -/

/-- The instruction a request on the transport port decodes to. -/
def Frame.request : Frame → Instr
  | .init => .initTransport
  | .read1 a => decodeRead1 (a.extractLsb' 0 7)
  | .read2 a => decodeRead2 (a.extractLsb' 0 7)
  | .write a v => decodeWrite (a.extractLsb' 0 7) v

theorem addrRd_extract (a : Byte) : (addrRd a).extractLsb' 0 7 = a.extractLsb' 0 7 := by
  revert a; decide

theorem addrWr_extract (a : Byte) : (addrWr a).extractLsb' 0 7 = a.extractLsb' 0 7 := by
  revert a; decide

/-- A port that asks for an operation shows the word of that operation's instruction (R28, R72, R73). -/
theorem decode_word_of_asks {p : TPort} {f : Frame} (h : p.asks f = true) : decode p.word = .ok f.request := by
  obtain ⟨req, kind, w0, w1, rlen⟩ := p
  cases f with
  | init =>
    obtain ⟨rfl, rfl⟩ : kind = 0#2 ∧ rlen = 0#2 := by simpa [TPort.asks] using h
    rfl
  | read1 a =>
    obtain ⟨⟨rfl, rfl⟩, rfl⟩ : (kind = 2#2 ∧ w0 = addrRd a) ∧ rlen = 1#2 := by simpa [TPort.asks] using h
    simp only [TPort.word, decode, decodeTport, addrRd_mark, addrRd_extract]
    rfl
  | read2 a =>
    obtain ⟨⟨rfl, rfl⟩, rfl⟩ : (kind = 2#2 ∧ w0 = addrRd a) ∧ rlen = 2#2 := by simpa [TPort.asks] using h
    simp only [TPort.word, decode, decodeTport, addrRd_mark, addrRd_extract]
    rfl
  | write a v =>
    obtain ⟨⟨⟨rfl, rfl⟩, rfl⟩, rfl⟩ : ((kind = 1#2 ∧ w0 = addrWr a) ∧ w1 = v) ∧ rlen = 0#2 := by
      simpa [TPort.asks] using h
    simp only [TPort.word, decode, decodeTport, addrWr_mark, addrWr_extract]
    rfl

/-- An open handshake asks for the operation it was opened for. -/
@[simp] theorem openHandshake_asks (f : Frame) (s : State) : (openHandshake f s).port.asks f = true := by
  cases f <;> simp [openHandshake, TPort.asks]

/-! ## Of an address only the low seven bits count -/

/-- The operation with the address as the port carries it (R36, R92). -/
def Frame.onPort : Frame → Frame
  | .init => .init
  | .read1 a => .read1 (addrRd a)
  | .read2 a => .read2 (addrRd a)
  | .write a v => .write (addrRd a) v

section OnPort
variable (f : Frame)

@[simp] theorem openHandshake_onPort (s : State) : openHandshake f.onPort s = openHandshake f s := by
  cases f <;> simp [Frame.onPort, openHandshake]

@[simp] theorem frameEvent_onPort (r0 r1 : Byte) : frameEvent f.onPort r0 r1 = frameEvent f r0 r1 := by
  cases f <;> simp [Frame.onPort, frameEvent]

@[simp] theorem takeBytes_onPort (r0 r1 : Byte) (q : Seq) : takeBytes f.onPort r0 r1 q = takeBytes f r0 r1 q := by
  cases f <;> rfl

@[simp] theorem oracleServe_onPort (ans : Answer) (e : Env) : oracleServe f.onPort ans e = oracleServe f ans e := by
  cases f <;> rfl

@[simp] theorem refFrame_onPort (cfg : Config) (d : Nat) (e : Env) :
    refFrame cfg f.onPort d e = refFrame cfg f d e := by
  cases f <;> simp [Frame.onPort, refFrame]

@[simp] theorem refServe_onPort (cfg : Config) (d : Nat) (e : Env) :
    refServe cfg f.onPort d e = refServe cfg f d e := by
  cases f with
  | init => rfl
  | read1 a | read2 a | write a v => cases ht : e.transport <;> simp [Frame.onPort, refServe, refFrame, ht]

@[simp] theorem serve_onPort (cfg : Config) (ans : Answer) (d : Nat) (e : Env) :
    serve cfg f.onPort ans d e = serve cfg f ans d e := by
  simp only [serve, oracleServe_onPort, refServe_onPort, Env.account, frameEvent_onPort]

/-- The transport sees the operation as the port carries it (R28). -/
theorem transact_onPort (s : State) : transact f.onPort s = transact f s := by
  simp only [transact, answerRequest, closeHandshake, openHandshake_onPort, serve_onPort, takeBytes_onPort]

end OnPort

/-! ## The names of the micro-operations -/

/-- RD8 under each of its names is one read of the transport (R98). -/
theorem exec_of_read1Addr {i : Instr} {a : Byte} (h : read1Addr i = some a) (s : State) :
    exec i s = transact (.read1 a) s := by
  cases i with
  | rd8 b => cases h; rfl
  | frameRdConfig | frameRdFault => cases h; rfl
  | _ => cases h

/-- RD16 under each of its names is one read of the transport (R99). -/
theorem exec_of_read2Addr {i : Instr} {a : Byte} (h : read2Addr i = some a) (s : State) :
    exec i s = transact (.read2 a) s := by
  cases i with
  | rd16 b => cases h; rfl
  | frameRdRtd | frameRdHthr | frameRdLthr => cases h; rfl
  | _ => cases h

theorem addrRd_of_read1Addr {i : Instr} {a : Byte} (h : read1Addr i = some a) : addrRd a = a := by
  cases i with
  | rd8 b => cases h; revert b; decide
  | frameRdConfig | frameRdFault => cases h; rfl
  | _ => cases h

theorem addrRd_of_read2Addr {i : Instr} {a : Byte} (h : read2Addr i = some a) : addrRd a = a := by
  cases i with
  | rd16 b => cases h; revert b; decide
  | frameRdRtd | frameRdHthr | frameRdLthr => cases h; rfl
  | _ => cases h

theorem decodeRead1_names (a : RegAddr) : read1Addr (decodeRead1 a) = some (readByte a) := by
  revert a; decide

theorem decodeRead2_names (a : RegAddr) : read2Addr (decodeRead2 a) = some (readByte a) := by
  revert a; decide

theorem decodeWrite_names (a : RegAddr) (v : Byte) : writeAddr (decodeWrite a v) = some (readByte a, v) := by
  unfold decodeWrite
  split
  · simp [writeAddr, readByte, *]
  split
  · simp [writeAddr, readByte, *]
  split
  · simp [writeAddr, readByte, *]
  split
  · simp [writeAddr, readByte, *]
  split
  · simp [writeAddr, readByte, *]
  · rfl

/-- The instruction of a request carries out the operation (R97 to R100). -/
theorem exec_request (f : Frame) (s : State) : exec f.request s = transact f s := by
  cases f with
  | init => rfl
  | read1 a =>
    rw [Frame.request, exec_of_read1Addr (decodeRead1_names _), readByte_extract]
    exact transact_onPort (.read1 a) s
  | read2 a =>
    rw [Frame.request, exec_of_read2Addr (decodeRead2_names _), readByte_extract]
    exact transact_onPort (.read2 a) s
  | write a v =>
    rw [Frame.request, exec_of_writeAddr (decodeWrite_names _ _), readByte_extract]
    exact transact_onPort (.write a v) s

/-! ## In front of the oracle -/

/-- The account of one operation is a time line of one event. -/
theorem account_eq_passed (f : Frame) (r0 r1 : Byte) (d : Nat) (e : Env) :
    e.account f r0 r1 d = e.passed 1 0 [(some (frameEvent f r0 r1), d)] := by
  simp [Env.account, Env.record, Env.passed, timeline, ticksOfTimeline]

/-- Settles O21: the oracle serves the request and the transport is ready. -/
theorem initCompletes : Obligations.InitCompletes := by
  intro s d hk hd
  have hexec : exec .initTransport s = transact .init s := rfl
  refine ⟨(openHandshake .init s).port.tW0, (openHandshake .init s).port.tW1, ?_⟩
  rw [hexec, transact_oracle hd hk, if_pos rfl, account_eq_passed]
  rfl

/-- Settles O22: the oracle's first byte goes into T. -/
theorem readByteCompletes : Obligations.ReadByteCompletes := by
  intro i a s d hi hk hd
  refine ⟨(openHandshake (.read1 a) s).port.tW1, ?_⟩
  rw [exec_of_read1Addr hi, transact_oracle hd hk, if_neg nofun, account_eq_passed]
  rfl

/-- Settles O23: the oracle's two bytes join to the word that goes into R. -/
theorem readWordCompletes : Obligations.ReadWordCompletes := by
  intro i a s d hi hk hd
  refine ⟨(openHandshake (.read2 a) s).port.tW1, ?_⟩
  rw [exec_of_read2Addr hi, transact_oracle hd hk, if_neg nofun, account_eq_passed]
  rfl

/-- Settles O24: a write brings no byte back. -/
theorem writeByteCompletes : Obligations.WriteByteCompletes := by
  intro i a v s d hi hk hd
  rw [exec_of_writeAddr hi, transact_oracle hd hk, if_neg nofun, account_eq_passed]
  rfl

/-! ## In front of ENV-REF -/

/-- An initialised ENV-REF applies the frame to the injected and settled chip (R54, R59). -/
theorem refServe_ready {e : Env} (ht : e.transport = .ready) (cfg : Config) (f : Frame) (d : Nat) :
    refServe cfg f d e = refFrame cfg f d ((e.injectNext cfg).settle cfg e.now) := by
  cases f <;> simp [refServe, ht]

/-- `Init` is served in any state of the transport (R60). -/
theorem refServe_init (cfg : Config) (d : Nat) (e : Env) :
    refServe cfg .init d e
      = .next ⟨{ (e.injectNext cfg).settle cfg e.now with transport := .ready }, 0#8, 0#8⟩ := by
  unfold refServe
  cases e.transport <;> rfl

theorem refFrame_read1 {a : Byte} (h : addrRd a = a) (cfg : Config) (d : Nat) (e : Env) :
    refFrame cfg (.read1 a) d e = refRead1 a e := by
  rw [refFrame, h]

theorem refFrame_read2 {a : Byte} (h : addrRd a = a) (cfg : Config) (d : Nat) (e : Env) :
    refFrame cfg (.read2 a) d e = refRead2 cfg a e.now e := by
  rw [refFrame, h]

theorem refRead1_served {a : Byte} (h : a.toNat ≤ 0x07) (e : Env) : refRead1 a e = .next ⟨e, e.creg a, 0#8⟩ :=
  if_pos h

theorem refRead1_refused {a : Byte} (h : 0x07 < a.toNat) (e : Env) : refRead1 a e = .refused .envRefReadAddress :=
  if_neg (Nat.not_le.mpr h)

theorem refRead2_served {cfg : Config} {a : Byte} (h : a.toNat + 1 ≤ 0x07) (began : Nat) (e : Env) :
    refRead2 cfg a began e
      = .next ⟨if a = cfg.aRtdMsb then e.noteResultRead began else e, e.creg a, e.creg (a + 1#8)⟩ :=
  if_pos h

theorem refRead2_refused {cfg : Config} {a : Byte} (h : 0x07 < a.toNat + 1) (began : Nat) (e : Env) :
    refRead2 cfg a began e = .refused .envRefReadAddress :=
  if_neg (Nat.not_le.mpr h)

theorem refWrite_above {a : Byte} (h : 0x07 < a.toNat) (cfg : Config) (v : Byte) (ended : Nat) (e : Env) :
    refWrite cfg a v ended e = .refused .envRefWriteAddress :=
  if_pos h

section Refused
variable {s : State} (hk : s.env.kind = .envRef) (ht : s.env.transport = .ready)
include hk ht

/-- What an initialised ENV-REF refuses of the settled chip is refused, answered or not. -/
theorem transact_envRef_refused {f : Frame} {x : Refusal}
    (h : ∀ d, refFrame s.cfg f d ((s.env.injectNext s.cfg).settle s.cfg s.env.now) = .refused x) :
    transact f s = .refused x :=
  transact_refused fun d => serve_envRef_refused hk ((refServe_ready ht s.cfg f d).trans (h d))

/-- A read outside 0x00 to 0x07 is refused (R55). -/
theorem exec_read1_refused {i : Instr} {a : Byte} (hi : read1Addr i = some a) (ha : 0x07 < a.toNat) :
    exec i s = .refused .envRefReadAddress := by
  rw [exec_of_read1Addr hi]
  refine transact_envRef_refused hk ht fun d => ?_
  rw [refFrame_read1 (addrRd_of_read1Addr hi), refRead1_refused ha]

theorem exec_read2_refused {i : Instr} {a : Byte} (hi : read2Addr i = some a) (ha : 0x07 < a.toNat + 1) :
    exec i s = .refused .envRefReadAddress := by
  rw [exec_of_read2Addr hi]
  refine transact_envRef_refused hk ht fun d => ?_
  rw [refFrame_read2 (addrRd_of_read2Addr hi), refRead2_refused ha]

end Refused

/-- What ENV-REF makes of an answered operation it serves. -/
theorem transact_envRef_served {f : Frame} {s : State} {d : Nat} {sv : Served} (hk : s.env.kind = .envRef)
    (hd : (s.env.answerAt 0).duration = some d) (hs : refServe s.cfg f d s.env = .next sv) :
    ∃ t, transact f s = .next t
      ∧ t.seq = (takeBytes f sv.r0 sv.r1 s.seq).finish s.cfg.biasNormallyOff
      ∧ (∀ k, t.env.creg k = sv.env.creg k) ∧ t.env.pending = sv.env.pending
      ∧ t.env.transport = sv.env.transport ∧ t.env.now = s.env.now + d := by
  have hserve := serve_envRef_next (ans := s.env.answerAt 0) hk hs
  obtain ⟨-, hnow, -⟩ := serve_next hserve
  exact ⟨_, transact_served hd hserve, rfl, fun _ => rfl, rfl, rfl, hnow⟩

section NoteResultRead
variable (began : Nat) (e : Env)

@[simp] theorem noteResultRead_creg (k : Byte) : (e.noteResultRead began).creg k = e.creg k := rfl
@[simp] theorem noteResultRead_pending : (e.noteResultRead began).pending = e.pending := rfl
@[simp] theorem noteResultRead_transport : (e.noteResultRead began).transport = e.transport := rfl

end NoteResultRead

/-- Settles O27: at 0x00 to 0x07 a read hands back the settled chip, of which RD16 of the result pair changes the
bookkeeping alone. -/
theorem envRefServesReads : Obligations.EnvRefServesReads := by
  intro i a s d hk ht hd
  refine ⟨fun hi => ⟨fun ha => ?_, exec_read1_refused hk ht hi⟩,
    fun hi => ⟨fun ha => ?_, exec_read2_refused hk ht hi⟩⟩
  · have hf := (refFrame_read1 (addrRd_of_read1Addr hi) s.cfg d
      ((s.env.injectNext s.cfg).settle s.cfg s.env.now)).trans (refRead1_served ha _)
    obtain ⟨t, hexec, hseq, hcreg, hpend, htr, hnow⟩ :=
      transact_envRef_served hk hd ((refServe_ready ht _ _ _).trans hf)
    exact ⟨t, (exec_of_read1Addr hi s).trans hexec, hseq, hcreg, hpend, by simp [htr, ht], hnow⟩
  · have hf := (refFrame_read2 (addrRd_of_read2Addr hi) s.cfg d
      ((s.env.injectNext s.cfg).settle s.cfg s.env.now)).trans (refRead2_served ha _ _)
    obtain ⟨t, hexec, hseq, hcreg, hpend, htr, hnow⟩ :=
      transact_envRef_served hk hd ((refServe_ready ht _ _ _).trans hf)
    refine ⟨t, (exec_of_read2Addr hi s).trans hexec, hseq, fun k => ?_, ?_, ?_, hnow⟩
    · rw [hcreg]; split <;> rfl
    · rw [hpend]; split <;> rfl
    · rw [htr]; split <;> simp [ht]

/-- Every micro-operation but INIT is a frame other than `Init`. -/
theorem exec_of_frameName {i : Instr}
    (h : (read1Addr i).isSome = true ∨ (read2Addr i).isSome = true ∨ (writeAddr i).isSome = true) :
    ∃ f, f ≠ .init ∧ ∀ s, exec i s = transact f s := by
  simp only [Option.isSome_iff_exists] at h
  obtain ⟨a, hi⟩ | ⟨a, hi⟩ | ⟨⟨a, v⟩, hi⟩ := h
  · exact ⟨.read1 a, nofun, exec_of_read1Addr hi⟩
  · exact ⟨.read2 a, nofun, exec_of_read2Addr hi⟩
  · exact ⟨.write a v, nofun, exec_of_writeAddr hi⟩

/-- Settles O30: ENV-REF looks at the transport before it looks at the frame, but for `Init`. -/
theorem uninitialisedTransportFaults : Obligations.UninitialisedTransportFaults := by
  refine fun i s hk => ⟨fun ht hname => ?_, fun ht hname => ?_, fun d hd => ?_⟩
  · obtain ⟨f, hf, hexec⟩ := exec_of_frameName hname
    rw [hexec, transact_uninitialised hk ht hf]
  · obtain ⟨f, hf, hexec⟩ := exec_of_frameName hname
    rw [hexec, transact_dropped hk ht hf]
  · obtain ⟨t, hexec, -, hcreg, hpend, htr, hnow⟩ := transact_envRef_served hk hd (refServe_init s.cfg d s.env)
    exact ⟨t, hexec, htr, hcreg, hpend, hnow⟩

/-! ## A request that is never answered -/

/-- A well-formed instruction is the one its own request decodes to. -/
theorem request_of_read1Addr {i : Instr} {a : Byte} (hwf : i.wellFormed = true) (h : read1Addr i = some a) :
    (Frame.read1 a).request = i := by
  cases i with
  | rd8 b =>
    cases h
    exact (congrArg decodeRead1 (readByte_fields b).2).trans (decodeRead1_of_addrOk hwf)
  | frameRdConfig | frameRdFault => cases h; rfl
  | _ => cases h

theorem request_of_read2Addr {i : Instr} {a : Byte} (hwf : i.wellFormed = true) (h : read2Addr i = some a) :
    (Frame.read2 a).request = i := by
  cases i with
  | rd16 b =>
    cases h
    exact (congrArg decodeRead2 (readByte_fields b).2).trans (decodeRead2_of_addrOk hwf)
  | frameRdRtd | frameRdHthr | frameRdLthr => cases h; rfl
  | _ => cases h

theorem request_of_writeAddr {i : Instr} {a v : Byte} (hwf : i.wellFormed = true) (h : writeAddr i = some (a, v)) :
    (Frame.write a v).request = i := by
  cases i with
  | wr8 b u =>
    cases h
    exact (congrArg (decodeWrite · v) (readByte_fields b).2).trans (decodeWrite_of_addrOk hwf v)
  | frameWrConfig u | frameWrHthrMsb u | frameWrHthrLsb u | frameWrLthrMsb u | frameWrLthrLsb u => cases h; rfl
  | _ => cases h

/-- A request the environment serves and the transport never answers stands, and time goes on (R138). -/
theorem request_hangs {f : Frame} {s : State} (hd : (s.env.answerAt 0).duration = none)
    (hs : s.env.kind = .oracle ∨ ∃ sv, refServe s.cfg f 0 s.env = .next sv) :
    ∃ p : TPort, p.tReq = true ∧ decode p.word = .ok f.request
      ∧ exec f.request s = .next { s with port := p, env := { s.env with now := s.env.now + 1 } } := by
  refine ⟨(openHandshake f s).port, openHandshake_tReq f s, decode_word_of_asks (openHandshake_asks f s), ?_⟩
  rw [exec_request]
  cases hk : s.env.kind with
  | oracle => exact transact_oracle_hang hd hk
  | envRef =>
    obtain hor | ⟨sv, hsv⟩ := hs
    · exact absurd hk (by simp [hor])
    · exact transact_hang hd (serve_envRef_next hk hsv)

/-- Settles O25: whether ENV-REF serves a request is the frame's business on the settled chip, whatever the
duration. -/
theorem unansweredFrameHangs : Obligations.UnansweredFrameHangs := by
  intro i s hwf hname hd
  refine ⟨fun hserves => ?_, fun hk ht => ⟨fun a hi => exec_read1_refused hk ht hi,
    fun a hi => exec_read2_refused hk ht hi, fun a v hi => ⟨fun ha => ?_, fun ha hc hthr => ?_, fun ha hc h1 hp => ?_⟩⟩⟩
  · simp only [Option.isSome_iff_exists] at hname
    obtain rfl | ⟨a, hi⟩ | ⟨a, hi⟩ | ⟨⟨a, v⟩, hi⟩ := hname
    · exact request_hangs (f := .init) hd (.inr ⟨_, refServe_init _ _ _⟩)
    · rw [← request_of_read1Addr hwf hi]
      refine request_hangs hd (hserves.imp_right fun h => ?_)
      obtain rfl | ⟨ht, hread, -⟩ := h
      · cases hi
      · exact ⟨_, by rw [refServe_ready ht, refFrame_read1 (addrRd_of_read1Addr hi), refRead1_served (hread a hi)]⟩
    · rw [← request_of_read2Addr hwf hi]
      refine request_hangs hd (hserves.imp_right fun h => ?_)
      obtain rfl | ⟨ht, -, hread, -⟩ := h
      · cases hi
      · exact ⟨_, by rw [refServe_ready ht, refFrame_read2 (addrRd_of_read2Addr hi), refRead2_served (hread a hi)]⟩
    · rw [← request_of_writeAddr hwf hi]
      refine request_hangs hd (hserves.imp_right fun h => ?_)
      obtain rfl | ⟨ht, -, -, hwrite⟩ := h
      · cases hi
      · obtain ⟨hle, hok⟩ := hwrite a v hi
        rw [refServe_ready ht, refFrame, addrRd_of_writeAddr hi, refWrite, if_neg (Nat.not_lt.mpr hle)]
        obtain ⟨hc, hthr⟩ | ⟨rfl, hok⟩ := hok
        · exact ⟨_, by rw [if_neg hc, if_pos hthr]⟩
        · rw [if_pos rfl]
          exact refWriteConfig_served (hok.imp_left hasBit_eq_false_iff.mpr) _
  · exact exec_write_refused hi hk ht fun ended => refWrite_above ha _ _ _ _
  · exact exec_write_refused hi hk ht fun ended => refWrite_refused hc hthr _ _ _
  · refine exec_write_refused hi hk ht fun ended => ?_
    rw [refWrite, if_neg (Nat.not_lt.mpr ha), if_pos hc]
    exact refWriteConfig_refused (hasBit_iff.mpr h1) hp ended

end Sys2Proof.Machine
end
section
/-! PROOF. The micro-programs as linked lists of entries: where each entry leads, and that what the entry there reads
has been loaded (spec/10_state.md R17 to R20, spec/44_conversion.md R121). -/

namespace Sys2Proof.Machine

/-! ## What an entry leaves for the next one -/

/-- The write sends a byte made of T (R100). -/
def WrData.readsT : WrData → Bool
  | .setT _ | .clrT _ | .wireT _ | .clearFaultT => true
  | .lit _ | .aLo | .aHi | .bLo | .bHi => false

/-- The entry loads T (R98). -/
def Micro.loadsT : Micro → Bool
  | .rd8 _ => true
  | .init | .rd16 _ | .wr8 _ _ | .dly _ | .setRes _ | .skip _ _ | .respond _ _ => false

/-- The entry loads R (R99). -/
def Micro.loadsR : Micro → Bool
  | .rd16 _ => true
  | .init | .rd8 _ | .wr8 _ _ | .dly _ | .setRes _ | .skip _ _ | .respond _ _ => false

/-- The entry forms RES (R20). -/
def Micro.formsRes : Micro → Bool
  | .setRes _ => true
  | .init | .rd8 _ | .rd16 _ | .wr8 _ _ | .dly _ | .skip _ _ | .respond _ _ => false

/-- What the next entry reads of T and R is what `m` loads; RES, which may lie further back, is left to
`resBehind`. -/
def Micro.prepares (m : Micro) : Micro → Bool
  | .wr8 _ v => !v.readsT || m.loadsT
  | .setRes .tExtended => m.loadsT
  | .setRes .rShifted | .setRes .rWord => m.loadsR
  | .init | .rd8 _ | .rd16 _ | .dly _ | .skip _ _ | .respond _ _ => true

/-- An entry that forms RES lies before index `k`. -/
def resBehind (p : List Micro) (k : Nat) : Bool := (p.take k).any Micro.formsRes

/-- Where entry `k` may lead (R17, R131); nowhere after the response. -/
def Micro.successors (k : Nat) : Micro → List Nat
  | .respond _ _ => []
  | .skip x y => [x.toNat, y.toNat]
  | .init | .rd8 _ | .rd16 _ | .wr8 _ _ | .dly _ | .setRes _ => [k + 1]

/-- From entry `k`, which is `m`, the program goes forward to an entry that `m` prepares, and passes by no entry that
forms RES. -/
def linkedTo (p : List Micro) (k : Nat) (m : Micro) (j : Nat) : Bool :=
  match p[j]? with
  | some m' => decide (k < j) && m.prepares m' && resBehind p j == (resBehind p k || m.formsRes)
  | none => false

/-- A response presents RES only where it has been formed. -/
def respondsFormed (p : List Micro) (k : Nat) : Micro → Bool
  | .respond .res _ => resBehind p k
  | .respond .zero _ | .init | .rd8 _ | .rd16 _ | .wr8 _ _ | .dly _ | .setRes _ | .skip _ _ => true

/-- Every entry of the program is linked to those it leads to, and the first one reads nothing. -/
def linked (p : List Micro) : Bool :=
  p.head?.all Micro.init.prepares
    && (List.range p.length).all fun k =>
      p[k]?.all fun m => (m.successors k).all (linkedTo p k m) && respondsFormed p k m

/-- Every micro-program is linked: a look at each entry of each. -/
theorem microProgram_linked (cfg : Config) (i : Instr) : linked (microProgram cfg i) = true := by
  cases i with
  | enableBias on => cases on <;> rfl
  | autoConvert on => cases on <;> rfl
  | _ => rfl

/-- R17: a micro-program has at most 14 entries. -/
theorem microProgram_length (cfg : Config) (i : Instr) : (microProgram cfg i).length ≤ 14 := by
  cases i <;> simp [microProgram, progBegin, progReadRtd, progReadFault, progClearFault, progEnableBias,
    progAutoConvert, progSetWires, progSetThresholds, progGetLowerThreshold, progGetUpperThreshold, progIllegal]

/-- Every command word selects a micro-program with a first entry. -/
theorem exists_first_entry (cfg : Config) (op : Byte) (a b : Word) :
    ∃ m, (microProgram cfg (decodeFields op a b))[0]? = some m := by
  have hkind := isCommand_decodeFields op a b
  cases h : decodeFields op a b with
  | beginCmd | readRtd | readFault | clearFault | enableBias | autoConvert | setWires | setThresholds
  | getLowerThreshold | getUpperThreshold | illegalBeginMode3 | illegalSetWiresMode3 | illegalOp0A0B
  | illegalOp0C0F | illegalOp101F | illegalOp203F | illegalOp407F | illegalOp80FF => exact ⟨_, rfl⟩
  | _ => rw [h] at hkind; exact absurd hkind Bool.false_ne_true

section Linked
variable {p : List Micro} {k : Nat} {m : Micro} (h : linked p = true) (hm : p[k]? = some m)
include h hm

theorem linked_at : (m.successors k).all (linkedTo p k m) = true ∧ respondsFormed p k m = true := by
  obtain ⟨hlt, -⟩ := List.getElem?_eq_some_iff.mp hm
  simp only [linked, Bool.and_eq_true, List.all_eq_true, List.mem_range] at h
  have hk := h.2 k hlt
  simpa [hm] using hk

/-- Where an entry leads there is an entry, further on. -/
theorem linked_successor {j : Nat} (hj : j ∈ m.successors k) :
    ∃ m', p[j]? = some m' ∧ k < j ∧ m.prepares m' = true
      ∧ resBehind p j = (resBehind p k || m.formsRes) := by
  have hlink := List.all_eq_true.mp (linked_at h hm).1 j hj
  unfold linkedTo at hlink
  cases hm' : p[j]? with
  | none => simp [hm'] at hlink
  | some m' =>
    simp only [hm', Bool.and_eq_true, decide_eq_true_eq, beq_iff_eq] at hlink
    exact ⟨m', rfl, hlink.1.1, hlink.1.2, hlink.2⟩

end Linked

theorem linked_first {p : List Micro} {m : Micro} (h : linked p = true) (hm : p[0]? = some m) :
    Micro.init.prepares m = true := by
  simp only [linked, Bool.and_eq_true] at h
  simpa [List.head?_eq_getElem?, hm] using h.1

theorem resFormed_iff {p : List Micro} {q : Seq} :
    resFormed p q = true ↔ (resBehind p q.upc.toNat = true → q.resLive = true) := by
  have hall : ((p.take q.upc.toNat).all fun m => !m.formsRes) = !resBehind p q.upc.toNat := by
    simp [resBehind, List.all_eq_not_any_not]
  have hmatch : resFormed p q = (q.resLive || (p.take q.upc.toNat).all fun m => !m.formsRes) := by
    unfold resFormed
    congr 2
    funext m
    cases m <;> rfl
  rw [hmatch, hall]
  cases resBehind p q.upc.toNat <;> cases q.resLive <;> decide

/-! ## READ_RTD, the one program with skips -/

/-- The two skips of READ_RTD, and where they lead (R121, R131). -/
theorem readRtd_skip {cfg : Config} {k : Nat} {x y : BitVec 4}
    (h : (progReadRtd cfg)[k]? = some (.skip x y)) :
    (k = 0 ∧ x = 1#4 ∧ y = 4#4) ∨ (k = 9 ∧ x = 10#4 ∧ y = 12#4) := by
  obtain ⟨hlt, hget⟩ := List.getElem?_eq_some_iff.mp h
  have hk : k < 13 := hlt
  interval_cases k <;> simp_all [progReadRtd]

/-- The opcode of READ_RTD selects READ_RTD's program (R64). -/
theorem currentProgram_readRtd {q : Seq} (h : q.op = 0x01#8) (cfg : Config) :
    currentProgram cfg q = progReadRtd cfg := by
  rw [currentProgram, h]
  rfl

end Sys2Proof.Machine
end
section
/-! PROOF. The invariant of the sequencer, entry by entry (spec/10_state.md R14, R17 to R23): a command in execution
stands at an entry of its program, and ending the entry brings it to a linked one. -/

namespace Sys2Proof.Machine

/-! ## Phase -/

/-- `phase` is that of the entry at `upc`, and without bias switching the entries that switch it are not reached
(R121, R131). -/
structure PhaseOk (bno : Bool) (q : Seq) : Prop where
  phase : q.phase = if q.op = 0x01#8 then phaseDuring q.upc else .idle
  reached : q.op = 0x01#8 → bno = false →
    ¬ (1 ≤ q.upc.toNat ∧ q.upc.toNat ≤ 3) ∧ ¬ (10 ≤ q.upc.toNat ∧ q.upc.toNat ≤ 11)

/-- Another command's micro-steps leave `phase` IDLE (R23). -/
theorem phaseNext_of_ne {bno : Bool} {q : Seq} (h : PhaseOk bno q) (hop : q.op ≠ 0x01#8) :
    q.phaseNext bno = .idle := by
  have hphase := h.phase
  rw [if_neg hop] at hphase
  simp [Seq.phaseNext, Seq.inReadRtd, readRtdOp, hop, hphase]

theorem phaseNext_of_eq {bno : Bool} {q : Seq} (h : PhaseOk bno q) (hbusy : q.busy = true)
    (hop : q.op = 0x01#8) : q.phaseNext bno = phaseAfter bno q.upc (phaseDuring q.upc) := by
  have hphase := h.phase
  rw [if_pos hop] at hphase
  simp [Seq.phaseNext, Seq.inReadRtd, readRtdOp, hop, hphase, hbusy]

/-- The table of R121 from one entry to the next: at the two skips `phase` depends on where they lead. -/
theorem phaseAfter_next (bno : Bool) (k : BitVec 4) (h0 : k ≠ 0#4) (hlast : k.toNat < 15) :
    phaseAfter bno k (phaseDuring k) = phaseDuring (k + 1#4) := by
  revert bno k; decide

/-- Ending an entry that is no skip. -/
theorem PhaseOk.finish {bno : Bool} {q : Seq} (h : PhaseOk bno q) (hbusy : q.busy = true) (hlast : q.upc.toNat < 15)
    (hskip : q.op = 0x01#8 → q.upc ≠ 0#4 ∧ q.upc ≠ 9#4) : PhaseOk bno (q.finish bno) := by
  refine ⟨?_, fun hop hbno => ?_⟩
  · show q.phaseNext bno = if q.op = 0x01#8 then phaseDuring (q.upc + 1#4) else .idle
    split
    · rw [phaseNext_of_eq h hbusy ‹_›, phaseAfter_next bno q.upc (hskip ‹_›).1 hlast]
    · exact phaseNext_of_ne h ‹_›
  · obtain ⟨hbias, hoff⟩ := h.reached hop hbno
    obtain ⟨h0, h9⟩ := hskip hop
    rw [finish_upc]
    bv_omega

/-- Taking one of READ_RTD's skips (R131). -/
theorem PhaseOk.jump {bno : Bool} {q : Seq} {x y : BitVec 4} (h : PhaseOk bno q) (hbusy : q.busy = true)
    (hskip : q.op = 0x01#8 → (q.upc = 0#4 ∧ x = 1#4 ∧ y = 4#4) ∨ (q.upc = 9#4 ∧ x = 10#4 ∧ y = 12#4)) :
    PhaseOk bno (q.jump bno (if bno then x else y)) := by
  by_cases hop : q.op = 0x01#8
  · have hnext := phaseNext_of_eq h hbusy hop
    have hupc : ∀ u, (q.jump bno u).upc = u := fun _ => rfl
    refine ⟨?_, fun _ hbno => ?_⟩
    · show q.phaseNext bno = if q.op = 0x01#8 then _ else _
      rw [if_pos hop, hnext]
      obtain ⟨hk, rfl, rfl⟩ | ⟨hk, rfl, rfl⟩ := hskip hop <;> rw [hk] <;> cases bno <;> rfl
    · rw [hupc, hbno, if_neg Bool.false_ne_true]
      obtain ⟨-, -, rfl⟩ | ⟨-, -, rfl⟩ := hskip hop <;> decide
  · refine ⟨?_, fun hop' => absurd hop' hop⟩
    show q.phaseNext bno = if q.op = 0x01#8 then _ else _
    rw [if_neg hop, phaseNext_of_ne h hop]

/-! ## The entry at hand -/

/-- What the invariant says of a command in execution, whose entry at hand is `m`. -/
structure AtEntry (s : State) (m : Micro) : Prop where
  busy : s.seq.busy = true
  entry : (currentProgram s.cfg s.seq)[s.seq.upc.toNat]? = some m
  ok : EntryOk s m
  formed : resFormed (currentProgram s.cfg s.seq) s.seq = true
  phaseOk : PhaseOk s.cfg.biasNormallyOff s.seq

theorem SeqInv.atEntry {s : State} (h : SeqInv s) (hbusy : s.seq.busy = true) : ∃ m, AtEntry s m := by
  obtain ⟨⟨m, hentry, hok⟩, hformed, hphase, hreached⟩ := h.2 hbusy
  exact ⟨m, hbusy, hentry, hok, hformed, hphase, hreached⟩

theorem AtEntry.seqInv {s : State} {m : Micro} (h : AtEntry s m) : SeqInv s :=
  ⟨fun hidle => absurd h.busy (by simp [hidle]),
    fun _ => ⟨⟨m, h.entry, h.ok⟩, h.formed, h.phaseOk.phase, h.phaseOk.reached⟩⟩

/-- The invariant is about the sequencer, its port and the parameters. -/
theorem SeqInv.of_same {s t : State} (h : SeqInv s) (hcfg : t.cfg = s.cfg) (hseq : t.seq = s.seq)
    (hport : t.port = s.port) : SeqInv t := by
  unfold SeqInv EntryOk at *
  rwa [hcfg, hseq, hport]

/-- `q'` has the entry and the command of `q`, whatever became of T, R, RES and TMR. -/
structure Seq.SameEntry (q q' : Seq) : Prop where
  busy : q'.busy = q.busy
  op : q'.op = q.op
  a : q'.a = q.a
  b : q'.b = q.b
  upc : q'.upc = q.upc
  phase : q'.phase = q.phase

theorem Seq.SameEntry.refl (q : Seq) : Seq.SameEntry q q := ⟨rfl, rfl, rfl, rfl, rfl, rfl⟩

theorem Seq.SameEntry.program {q q' : Seq} (h : Seq.SameEntry q q') (cfg : Config) :
    currentProgram cfg q' = currentProgram cfg q := by
  rw [currentProgram, h.op, h.a, h.b, currentProgram]

theorem Seq.SameEntry.phaseOk {q q' : Seq} (h : Seq.SameEntry q q') {bno : Bool} (hq : PhaseOk bno q) :
    PhaseOk bno q' :=
  ⟨by rw [h.phase, h.op, h.upc]; exact hq.phase, by rw [h.op, h.upc]; exact hq.reached⟩

theorem takeBytes_sameEntry (f : Frame) (r0 r1 : Byte) (q : Seq) : Seq.SameEntry q (takeBytes f r0 r1 q) := by
  cases f <;> exact ⟨rfl, rfl, rfl, rfl, rfl, rfl⟩

theorem setTmr_sameEntry (n : Nat) (q : Seq) : Seq.SameEntry q (q.setTmr n) := ⟨rfl, rfl, rfl, rfl, rfl, rfl⟩

theorem loadRes_sameEntry (v : Word) (q : Seq) : Seq.SameEntry q (q.loadRes v) := ⟨rfl, rfl, rfl, rfl, rfl, rfl⟩

/-- What the entry loads is live in `q`. -/
def Micro.Loaded (q : Seq) : Micro → Prop
  | .rd8 _ => q.tLive = true
  | .rd16 _ => q.rLive = true
  | .setRes _ => q.resLive = true
  | .init | .wr8 _ _ | .dly _ | .skip _ _ | .respond _ _ => True

theorem loaded_init (q : Seq) : Micro.init.Loaded q := trivial

section Loaded
variable {m : Micro} {q : Seq} (h : m.Loaded q)
include h

theorem tLive_of_loaded (hm : m.loadsT = true) : q.tLive = true := by
  cases m with
  | rd8 a => exact h
  | _ => cases hm

theorem rLive_of_loaded (hm : m.loadsR = true) : q.rLive = true := by
  cases m with
  | rd16 a => exact h
  | _ => cases hm

theorem resLive_of_loaded (hm : m.formsRes = true) : q.resLive = true := by
  cases m with
  | setRes src => exact h
  | _ => cases hm

/-- An entry that is prepared, and to which RES is live if it presents it, reads nothing dead (R18, U14). -/
theorem operandsLive_of_prepares {m' : Micro} (hprep : m.prepares m' = true)
    (hres : ∀ st, m' = .respond .res st → q.resLive = true) (cfg : Config) : m'.operandsLive cfg q = true := by
  cases m' with
  | wr8 a v =>
    cases v with
    | setT | clrT | wireT | clearFaultT =>
      have ht := tLive_of_loaded h (by simpa [Micro.prepares, WrData.readsT] using hprep)
      simp [Micro.operandsLive, WrData.eval, readT, ht, Except.map, Except.isOk, Except.toBool]
    | lit | aLo | aHi | bLo | bHi => rfl
  | setRes src =>
    cases src with
    | tExtended =>
      have ht := tLive_of_loaded h hprep
      simp [Micro.operandsLive, ResSrc.eval, readT, ht, Except.map, Except.isOk, Except.toBool]
    | rShifted | rWord =>
      have hr := rLive_of_loaded h hprep
      simp [Micro.operandsLive, ResSrc.eval, readR, hr, Except.map, Except.isOk, Except.toBool]
  | respond src st =>
    cases src with
    | zero => rfl
    | res => simp [Micro.operandsLive, RspSrc.eval, readRes, hres st rfl, Except.isOk, Except.toBool]
  | init | rd8 | rd16 | dly | skip => rfl

end Loaded

/-! ## Arriving at an entry -/

/-- A command that comes to a prepared entry, with its phase, meets the invariant there. -/
theorem atEntry_of_prepared {t : State} {m m' : Micro} (hbusy : t.seq.busy = true) (hreq : t.port.tReq = false)
    (htmr : t.seq.tmr = 0) (hloaded : m.Loaded t.seq) (hprep : m.prepares m' = true)
    (hentry : (currentProgram t.cfg t.seq)[t.seq.upc.toNat]? = some m')
    (hformed : resBehind (currentProgram t.cfg t.seq) t.seq.upc.toNat = true → t.seq.resLive = true)
    (hphase : PhaseOk t.cfg.biasNormallyOff t.seq) : AtEntry t m' := by
  have hres : ∀ st, m' = .respond .res st → t.seq.resLive = true := by
    rintro st rfl
    exact hformed (linked_at (microProgram_linked _ _) hentry).2
  exact ⟨hbusy, hentry, ⟨operandsLive_of_prepares hloaded hprep hres _, fun h => absurd htmr h,
    fun h => absurd hreq (by simp [h])⟩, resFormed_iff.mpr hformed, hphase⟩

/-- Acceptance brings an idle block to the first entry of a program (R26). -/
theorem seqInv_accept {s : State} (h : SeqInv s) (hbusy : s.seq.busy = false) (op : Byte) (a b : Word) :
    SeqInv (accept op a b s) := by
  obtain ⟨-, htmr, hphase, hreq⟩ := h.1 hbusy
  obtain ⟨m, hm⟩ := exists_first_entry s.cfg op a b
  have hfirst := linked_first (microProgram_linked _ _) hm
  refine (atEntry_of_prepared (t := accept op a b s) rfl hreq htmr (loaded_init _) hfirst hm nofun ⟨?_, ?_⟩).seqInv
  · show s.seq.phase = if op = 0x01#8 then .idle else .idle
    rw [hphase, ite_self]
  · have hupc : (accept op a b s).seq.upc = 0#4 := rfl
    rw [hupc]
    exact fun _ _ => by decide

section AtEntry
variable {s : State} {m : Micro} (h : AtEntry s m)
include h

theorem AtEntry.upc_lt : s.seq.upc.toNat < 14 :=
  Nat.lt_of_lt_of_le (List.getElem?_eq_some_iff.mp h.entry).1 (microProgram_length _ _)

/-- Of a skip in READ_RTD's program. -/
theorem AtEntry.skip_upc {x y : BitVec 4} (hm : m = .skip x y) (hop : s.seq.op = 0x01#8) :
    (s.seq.upc = 0#4 ∧ x = 1#4 ∧ y = 4#4) ∨ (s.seq.upc = 9#4 ∧ x = 10#4 ∧ y = 12#4) := by
  have hentry := h.entry
  rw [currentProgram_readRtd hop, hm] at hentry
  exact (readRtd_skip hentry).imp (fun ⟨hk, hxy⟩ => ⟨BitVec.eq_of_toNat_eq hk, hxy⟩)
    fun ⟨hk, hxy⟩ => ⟨BitVec.eq_of_toNat_eq hk, hxy⟩

/-- In READ_RTD's program indices 0 and 9 are the skips. -/
theorem AtEntry.upc_of_no_skip (hm : ∀ x y, m ≠ .skip x y) (hop : s.seq.op = 0x01#8) :
    s.seq.upc ≠ 0#4 ∧ s.seq.upc ≠ 9#4 := by
  have hentry := h.entry
  rw [currentProgram_readRtd hop] at hentry
  refine ⟨fun hupc => ?_, fun hupc => ?_⟩ <;> rw [hupc] at hentry <;> cases hentry <;> exact hm _ _ rfl

/-- An entry that leads to the next index has ended: the registers are `q'`, in which what it loads is live, TMR is 0
and no handshake is open. -/
theorem AtEntry.done {t : State} {q' : Seq} (hnext : m.successors s.seq.upc.toNat = [s.seq.upc.toNat + 1])
    (hskip : ∀ x y, m ≠ .skip x y) (hcfg : t.cfg = s.cfg) (hseq : t.seq = q'.finish s.cfg.biasNormallyOff)
    (hsame : Seq.SameEntry s.seq q') (htmr : q'.tmr = 0) (hreq : t.port.tReq = false) (hloaded : m.Loaded q')
    (hres : s.seq.resLive = true → q'.resLive = true) : SeqInv t := by
  have hlast : s.seq.upc.toNat < 15 := Nat.lt_succ_of_lt h.upc_lt
  have hprog : currentProgram t.cfg t.seq = currentProgram s.cfg s.seq := by
    rw [hcfg, hseq]; exact hsame.program _
  have hupc : t.seq.upc.toNat = s.seq.upc.toNat + 1 := by
    rw [hseq, finish_upc, hsame.upc]; bv_omega
  obtain ⟨m', hentry, -, hprep, hbehind⟩ := linked_successor (microProgram_linked _ _) h.entry
    (hnext ▸ List.mem_singleton.mpr rfl)
  have hbusy : q'.busy = true := hsame.busy.trans h.busy
  refine (atEntry_of_prepared (m := m) (m' := m') ?_ hreq ?_ ?_ hprep ?_ ?_ ?_).seqInv
  · rw [hseq]; exact hbusy
  · rw [hseq]; exact htmr
  · rw [hseq]; cases m <;> exact hloaded
  · rw [hprog, hupc]; exact hentry
  · rw [hprog, hupc, hseq]
    intro hformed
    change resBehind (microProgram _ _) _ = true at hformed
    rw [hbehind, Bool.or_eq_true] at hformed
    exact hformed.elim (fun hb => hres (resFormed_iff.mp h.formed hb)) (resLive_of_loaded hloaded)
  · rw [hcfg, hseq]
    refine (hsame.phaseOk h.phaseOk).finish hbusy (hsame.upc ▸ hlast) fun hop => ?_
    rw [hsame.upc]
    exact h.upc_of_no_skip hskip (hsame.op ▸ hop)

/-- Nothing but TMR and the port has changed, and both are as the entry allows. -/
theorem AtEntry.stays {t : State} {n : Nat} (hcfg : t.cfg = s.cfg) (hseq : t.seq = s.seq.setTmr n)
    (htmr : n ≠ 0 → ∃ k, m = .dly k ∧ n ≤ k)
    (hport : t.port.tReq = true → ∃ f, m.frame s.cfg s.seq = some f ∧ t.port.asks f = true) : SeqInv t := by
  obtain ⟨hlive, -, -⟩ := h.ok
  have hframe : ∀ cfg, m.frame cfg (s.seq.setTmr n) = m.frame cfg s.seq := fun cfg => by
    cases m with
    | wr8 a v => cases v <;> rfl
    | _ => rfl
  have hlive' : m.operandsLive s.cfg (s.seq.setTmr n) = true := by
    cases m with
    | wr8 a v => cases v <;> exact hlive
    | setRes src => cases src <;> exact hlive
    | respond src st => cases src <;> exact hlive
    | _ => exact hlive
  have hat : AtEntry t m := by
    refine ⟨by rw [hseq]; exact h.busy, by rw [hcfg, hseq]; exact h.entry, ?_, by rw [hcfg, hseq]; exact h.formed,
      by rw [hcfg, hseq]; exact (setTmr_sameEntry n _).phaseOk h.phaseOk⟩
    unfold EntryOk
    rw [hcfg, hseq, hframe]
    exact ⟨hlive', htmr, hport⟩
  exact hat.seqInv

end AtEntry

end Sys2Proof.Machine
end
section
/-! PROOF. Every step keeps the invariant, and from a state of the invariant only ENV-REF stops the block
(spec/10_state.md R14 to R23, spec/20_memory.md R52, R60, spec/60_exceptions.md U14, R137). -/

namespace Sys2Proof.Machine

/-! ## Every entry keeps the invariant -/

/-- The transport micro-operation an entry runs is its frame (R96). -/
theorem frame_of_kind {cfg : Config} {q : Seq} {m : Micro} {f : Frame}
    (h : (m = .init ∧ f = .init) ∨ (∃ a, m = .rd8 a ∧ f = .read1 a) ∨ (∃ a, m = .rd16 a ∧ f = .read2 a)
      ∨ ∃ a v byte, m = .wr8 a v ∧ v.eval cfg q = .ok byte ∧ f = .write a byte) : m.frame cfg q = some f := by
  obtain ⟨rfl, rfl⟩ | ⟨a, rfl, rfl⟩ | ⟨a, rfl, rfl⟩ | ⟨a, v, byte, rfl, hv, rfl⟩ := h
  · rfl
  · rfl
  · rfl
  · exact frame_wr8 hv a

/-- An entry with a frame is none of the others. -/
theorem frame_kind {cfg : Config} {q : Seq} {m : Micro} {f : Frame} (h : m.frame cfg q = some f) (k : Nat) :
    m.successors k = [k + 1] ∧ (∀ x y, m ≠ .skip x y) ∧ (∀ n, m ≠ .dly n)
      ∧ ∀ r0 r1, m.Loaded (takeBytes f r0 r1 q) := by
  cases m with
  | rd8 a | rd16 a => cases h; exact ⟨rfl, nofun, nofun, fun _ _ => rfl⟩
  | init => exact ⟨rfl, nofun, nofun, fun _ _ => trivial⟩
  | wr8 a v => exact ⟨rfl, nofun, nofun, fun _ _ => trivial⟩
  | dly n | setRes src | skip x y | respond src st => cases h

section AtEntry
variable {s t : State} {m : Micro} (h : AtEntry s m)
include h

/-- TMR counts in a delay only (R21). -/
theorem AtEntry.tmr_eq_zero (hm : ∀ n, m ≠ .dly n) : s.seq.tmr = 0 := by
  obtain ⟨-, htmr, -⟩ := h.ok
  by_contra hne
  obtain ⟨n, rfl, -⟩ := htmr hne
  exact hm n rfl

/-- Raising the request of the entry's own operation (R28). -/
theorem AtEntry.openHandshake {f : Frame} (hf : m.frame s.cfg s.seq = some f) (he : t.cfg = s.cfg)
    (hq : t.seq = s.seq) (hp : t.port.asks f = true) : SeqInv t := by
  obtain ⟨-, -, hdly, -⟩ := frame_kind hf 0
  refine h.stays (n := 0) he ?_ (fun hne => absurd rfl hne) fun _ => ⟨f, hf, hp⟩
  rw [hq, ← h.tmr_eq_zero hdly]
  rfl

/-- The entry's own operation, served or not (R96, R138). -/
theorem AtEntry.transact {f : Frame} (hf : m.frame s.cfg s.seq = some f) (ht : transact f s = .next t) :
    SeqInv t := by
  obtain ⟨hnext, hskip, hdly, hloaded⟩ := frame_kind hf s.seq.upc.toNat
  have htmr := h.tmr_eq_zero hdly
  obtain ⟨-, -, rfl⟩ | ⟨d, sv, -, -, rfl⟩ := transact_next ht
  · exact h.openHandshake hf rfl rfl (openHandshake_asks f s)
  · refine h.done hnext hskip rfl (closeHandshake_seq f sv _) (takeBytes_sameEntry _ _ _ _) ?_ rfl (hloaded _ _) ?_
    · cases f <;> exact htmr
    · cases f <;> exact id

section PortAtRest
variable (hreq : s.port.tReq = false)
include hreq

theorem AtEntry.endDelay {n : Nat} (hm : m = .dly n) (hcfg : t.cfg = s.cfg)
    (hseq : t.seq = (s.seq.setTmr 0).finish s.cfg.biasNormallyOff) (hport : t.port = s.port) : SeqInv t := by
  subst hm
  exact h.done rfl nofun hcfg hseq (setTmr_sameEntry 0 _) rfl (hport ▸ hreq) trivial id

theorem AtEntry.setResult {src : ResSrc} (hm : m = .setRes src) (w : Word) : SeqInv (setResult w s) := by
  subst hm
  have htmr := h.tmr_eq_zero nofun
  exact h.done rfl nofun rfl rfl (loadRes_sameEntry w _) htmr hreq rfl fun _ => rfl

/-- A skip brings the command to one of its two targets (R131). -/
theorem AtEntry.skip {x y : BitVec 4} (hm : m = .skip x y) : SeqInv (skip x y s) := by
  have htmr := h.tmr_eq_zero (hm ▸ nofun)
  have hupc : (Machine.skip x y s).seq.upc = if s.cfg.biasNormallyOff then x else y := rfl
  have hmem : (if s.cfg.biasNormallyOff then x else y).toNat ∈ m.successors s.seq.upc.toNat := by
    rw [hm]
    cases s.cfg.biasNormallyOff <;> simp [Micro.successors]
  obtain ⟨m', hentry, -, hprep, hbehind⟩ := linked_successor (microProgram_linked _ _) h.entry hmem
  refine (atEntry_of_prepared (t := Machine.skip x y s) (m := m) h.busy hreq htmr (hm ▸ trivial) hprep hentry
    ?_ (h.phaseOk.jump h.busy (h.skip_upc hm))).seqInv
  rw [hupc]
  intro hformed
  change resBehind (microProgram s.cfg (decodeFields s.seq.op s.seq.a s.seq.b)) _ = true at hformed
  rw [hbehind, hm, Micro.formsRes, Bool.or_false] at hformed
  exact resFormed_iff (p := currentProgram s.cfg s.seq) (q := s.seq) |>.mp h.formed hformed

theorem AtEntry.respond {src : RspSrc} {st : RspStatus} (hm : m = .respond src st) (d : Word) :
    SeqInv (respond d st s) := by
  have htmr := h.tmr_eq_zero (hm ▸ nofun)
  exact seqInv_of_idle rfl rfl ((respond_tmr _ _ _).trans htmr) rfl hreq

/-- One entry as a micro-step (R96). -/
theorem AtEntry.runMicro (hrun : runMicro m s = .next t) : SeqInv t := by
  obtain ⟨f, hf, hkind⟩ | ⟨n, hm, rfl⟩ | ⟨src, w, hm, -, rfl⟩ | ⟨x, y, hm, rfl⟩ | ⟨src, st, d, hm, -, rfl⟩ :=
    runMicro_next hrun
  · exact h.transact (frame_of_kind hkind) hf
  · exact h.endDelay hreq hm rfl rfl rfl
  · exact h.setResult hreq hm w
  · exact h.skip hreq hm
  · exact h.respond hreq hm d

/-- One edge of a delay (R101, log 23). -/
theorem AtEntry.delayEdge {n : Nat} (hm : m = .dly n) : SeqInv (delayEdge n s) := by
  have hle : s.seq.tmr ≠ 0 → s.seq.tmr ≤ n := fun hne => by
    obtain ⟨-, htmr, -⟩ := h.ok
    obtain ⟨k, hk, hle⟩ := htmr hne
    rw [hm] at hk
    cases hk
    exact hle
  have hclosed : ∀ p : TPort, p.tReq = s.port.tReq → p.tReq = true →
      ∃ f, m.frame s.cfg s.seq = some f ∧ p.asks f = true := fun p hp hopen => by simp [hp, hreq] at hopen
  unfold Machine.delayEdge
  split
  · split
    · exact h.endDelay hreq hm rfl rfl rfl
    · exact h.stays rfl rfl (fun _ => ⟨n, hm, Nat.le_refl n⟩) (hclosed _ rfl)
  · split
    · exact h.endDelay hreq hm rfl rfl rfl
    · exact h.stays rfl rfl (fun _ => ⟨n, hm, by have := hle ‹_›; omega⟩) (hclosed _ rfl)

/-- One edge of an entry (R28, R101). -/
theorem AtEntry.edgeMicro (hrun : edgeMicro m s = .next t) : SeqInv t := by
  have hopen : ∀ f, m.frame s.cfg s.seq = some f → SeqInv (Machine.openHandshake f s) :=
    fun f hf => h.openHandshake hf rfl rfl (openHandshake_asks f s)
  cases m with
  | init | rd8 a | rd16 a => cases hrun; exact hopen _ rfl
  | wr8 a v =>
    obtain ⟨byte, hv, ht⟩ := withOperand_next hrun
    cases ht
    exact hopen _ (frame_wr8 hv a)
  | dly n => cases hrun; exact h.delayEdge hreq rfl
  | setRes src =>
    obtain ⟨w, -, ht⟩ := withOperand_next hrun
    cases ht
    exact h.setResult hreq rfl w
  | skip x y => cases hrun; exact h.skip hreq rfl
  | respond src st =>
    obtain ⟨d, -, ht⟩ := withOperand_next hrun
    cases ht
    exact h.respond hreq rfl d

end PortAtRest
end AtEntry

/-! ## Every step keeps the invariant -/

section Busy
variable {s t : State} (h : SeqInv s) (hbusy : s.seq.busy = true) (hreq : s.port.tReq = false)
include h hbusy hreq

theorem SeqInv.microStep (hstep : microStep s = .next t) : SeqInv t := by
  obtain ⟨m, hat⟩ := h.atEntry hbusy
  rw [Machine.microStep, atUpc_some hat.entry] at hstep
  exact hat.runMicro hreq hstep

theorem SeqInv.edgeStep (hstep : edgeStep s = .next t) : SeqInv t := by
  obtain ⟨m, hat⟩ := h.atEntry hbusy
  rw [Machine.edgeStep, atUpc_some hat.entry] at hstep
  exact hat.edgeMicro hreq hstep

end Busy

theorem SeqInv.runCommand {n : Nat} {s t : State} (h : SeqInv s) (hrun : runCommand n s = .next t) : SeqInv t :=
  runCommand_keeps (P := SeqInv) (fun _ _ hbusy hreq hstep hu => hu.microStep hbusy hreq hstep) n s t hrun h

theorem SeqInv.continueCommand {s t : State} (h : SeqInv s) (hbusy : s.seq.busy = true)
    (hreq : s.port.tReq = false) (hcont : continueCommand s = .next t) : SeqInv t := by
  unfold Machine.continueCommand at hcont
  split at hcont
  · exact h.runCommand hcont
  · exact h.microStep hbusy hreq hcont
  · exact h.edgeStep hbusy hreq hcont

/-- The command port's word is run by acceptance of its three fields (R26, R71). -/
theorem exec_decodeCmd (w : CmdWord) (s : State) :
    exec (decodeCmd w) s = command (cmdOp w) (cmdA w) (cmdB w) s := by
  refine exec_of_commandFields ?_ s
  rw [commandFields, decodeCmd, encode_decodeFields]
  simp

theorem SeqInv.command {s t : State} (h : SeqInv s) {op : Byte} {a b : Word}
    (hcmd : command op a b s = .next t) : SeqInv t := by
  cases hbusy : s.seq.busy with
  | true => rw [command_busy hbusy] at hcmd; cases hcmd; exact h
  | false => rw [command_ready hbusy] at hcmd; exact (seqInv_accept h hbusy op a b).runCommand hcmd

/-- An open handshake is the entry's own (R28). -/
theorem SeqInv.openRequest {s : State} (h : SeqInv s) (hreq : s.port.tReq = true) :
    ∃ m f, AtEntry s m ∧ m.frame s.cfg s.seq = some f ∧ s.port.asks f = true := by
  cases hbusy : s.seq.busy with
  | false =>
    obtain ⟨-, -, -, hclosed⟩ := h.1 hbusy
    exact absurd hreq (by simp [hclosed])
  | true =>
    obtain ⟨m, hat⟩ := h.atEntry hbusy
    obtain ⟨-, -, hopen⟩ := hat.ok
    obtain ⟨f, hf, hasks⟩ := hopen hreq
    exact ⟨m, f, hat, hf, hasks⟩

/-- A register word at the codec changes the codec's own fields alone (log 20). -/
theorem exec_codec {sel : CodecSel} {w : Word} {i : Instr} (h : decode (.codec sel w) = .ok i) (s : State) :
    ∃ o, exec i s = .next (s.setCodec o) := by
  cases sel with
  | config | fault =>
    simp only [decode, decodeCodec] at h
    split at h
    · cases h; exact ⟨_, rfl⟩
    · cases h
  | rtd | threshold => cases h; exact ⟨_, rfl⟩

theorem SeqInv.step {s t : State} (h : SeqInv s) (hstep : step s = .next t) : SeqInv t := by
  obtain ⟨-, rfl⟩ | ⟨-, sel, w, i, -, hdec, hexec⟩ | ⟨-, -, hreq, i, hdec, hexec⟩ | ⟨-, -, hreq, hbusy, hcont⟩
    | ⟨-, -, hreq, hbusy, hport⟩ := step_next hstep
  · exact seqInv_of_idle rfl rfl rfl rfl rfl
  · obtain ⟨o, ho⟩ := exec_codec hdec s
    rw [ho] at hexec
    cases hexec
    exact h.of_same rfl rfl rfl
  · obtain ⟨m, f, hat, hf, hasks⟩ := h.openRequest hreq
    rw [decode_word_of_asks hasks] at hdec
    cases hdec
    rw [exec_request] at hexec
    exact hat.transact hf hexec
  · exact h.continueCommand hbusy hreq hcont
  · obtain ⟨-, rfl⟩ | ⟨n, rest, -, rfl⟩ | ⟨w, rest, -, -, hexec⟩ | ⟨w, rest, -, -, rfl⟩ := hport
    · exact h.of_same rfl rfl rfl
    · exact h.of_same rfl rfl rfl
    · rw [exec_decodeCmd] at hexec
      exact SeqInv.command (s := s.setHost rest) (h.of_same rfl rfl rfl) hexec
    · exact seqInv_accept (h.of_same rfl rfl rfl) hbusy _ _ _

/-- Settles O51: instructions and micro-steps keep the form, and a reset keeps the registers or forgets them all. -/
theorem stepKeepsMemoryCanonical : Obligations.StepKeepsMemoryCanonical := by
  intro s t hwf hstep
  have hexec : ∀ {i u}, u.env.mem = s.env.mem → exec i u = .next t → Memory.wf t.env.mem = true :=
    fun hmem h => by
      obtain ⟨-, -, -, -, -, hkeep⟩ := exec_keeps h
      exact hkeep (hmem ▸ hwf)
  obtain ⟨-, rfl⟩ | ⟨-, _, _, i, -, -, h⟩ | ⟨-, -, -, i, -, h⟩ | ⟨-, -, -, -, hcont⟩ | ⟨-, -, -, -, hport⟩ :=
    step_next hstep
  · exact afterReset_wf hwf
  · exact hexec rfl h
  · exact hexec rfl h
  · exact (continueCommand_rest hcont).wf hwf
  · obtain ⟨-, rfl⟩ | ⟨n, rest, -, rfl⟩ | ⟨w, rest, -, -, h⟩ | ⟨w, rest, -, -, rfl⟩ := hport
    · exact hwf
    · exact hwf
    · exact hexec (u := s.setHost rest) rfl h
    · exact hwf

/-- Settles O50: the sequencer's half by the kind of step, the register space's by O51. -/
theorem stepKeepsTheInvariant : Obligations.StepKeepsTheInvariant :=
  fun s t ⟨hseq, hmem⟩ hstep => ⟨hseq.step hstep, stepKeepsMemoryCanonical s t hmem hstep⟩

/-! ## What can stop a step -/

/-- If the outcome is a stop, ENV-REF made it, and a fault is that of R60. -/
def OnlyEnvRefStops (k : EnvKind) : Host.Outcome State Fault Refusal → Prop
  | .next _ => True
  | .fault x => k = .envRef ∧ x = .transportNotInitialised
  | .refused _ => k = .envRef

/-- ENV-REF's one fault is that of R60. -/
theorem refServe_fault {cfg : Config} {f : Frame} {d : Nat} {e : Env} {x : Fault}
    (h : refServe cfg f d e = .fault x) : x = .transportNotInitialised := by
  have hframe : ∀ e', refFrame cfg f d e' ≠ .fault x := by
    intro e' hf
    cases f with
    | init => cases hf
    | read1 a => simp only [refFrame, refRead1] at hf; split at hf <;> cases hf
    | read2 a => simp only [refFrame, refRead2] at hf; split at hf <;> cases hf
    | write a v =>
      simp only [refFrame, refWrite, refWriteConfig] at hf
      repeat' split at hf
      all_goals cases hf
  cases ht : e.transport with
  | ready => exact absurd (refServe_ready ht cfg f d ▸ h) (hframe _)
  | uninitialised =>
    cases f with
    | init => rw [refServe_init] at h; cases h
    | _ => simp only [refServe, ht] at h; cases h; rfl
  | dropped =>
    cases f with
    | init => rw [refServe_init] at h; cases h
    | _ => simp only [refServe, ht] at h; cases h

theorem serve_fault {cfg : Config} {f : Frame} {ans : Answer} {d : Nat} {e : Env} {x : Fault}
    (h : serve cfg f ans d e = .fault x) : e.kind = .envRef ∧ x = .transportNotInitialised := by
  cases hk : e.kind with
  | oracle => rw [serve_oracle hk] at h; cases h
  | envRef =>
    cases hs : refServe cfg f d e with
    | next sv => rw [serve_envRef_next hk hs] at h; cases h
    | refused y => rw [serve_envRef_refused hk hs] at h; cases h
    | fault y =>
      simp only [serve, hk, hs, Host.Outcome.fault.injEq] at h
      exact ⟨rfl, h ▸ refServe_fault hs⟩

theorem serve_refused {cfg : Config} {f : Frame} {ans : Answer} {d : Nat} {e : Env} {x : Refusal}
    (h : serve cfg f ans d e = .refused x) : e.kind = .envRef := by
  cases hk : e.kind with
  | oracle => rw [serve_oracle hk] at h; cases h
  | envRef => rfl

theorem transact_stops (f : Frame) (s : State) : OnlyEnvRefStops s.env.kind (transact f s) := by
  unfold transact
  cases hs : serve s.cfg f (openHandshake f s).env.answer ((openHandshake f s).env.answer.duration.getD 0)
    (openHandshake f s).env with
  | next sv => simp only [hs, OnlyEnvRefStops]
  | fault x => simp only [hs]; exact serve_fault hs
  | refused x => simp only [hs]; exact serve_refused hs

/-- A live operand is there. -/
theorem exists_of_isOk {α : Type} {x : Except Fault α} (h : x.isOk = true) : ∃ v, x = .ok v := by
  cases x with
  | ok v => exact ⟨v, rfl⟩
  | error f => cases h

section AtEntry
variable {s : State} {m : Micro} (h : AtEntry s m)
include h

/-- No entry reads T, R or RES while it is dead (R18, U14). -/
theorem AtEntry.runMicro_stops : OnlyEnvRefStops s.env.kind (Machine.runMicro m s) := by
  obtain ⟨hlive, -, -⟩ := h.ok
  cases m with
  | init | rd8 a | rd16 a => exact transact_stops _ s
  | wr8 a v =>
    obtain ⟨byte, hv⟩ := exists_of_isOk hlive
    simp only [Machine.runMicro, hv, withOperand_ok]
    exact transact_stops _ s
  | setRes src =>
    obtain ⟨w, hw⟩ := exists_of_isOk hlive
    simp only [Machine.runMicro, hw, withOperand_ok]
    trivial
  | respond src st =>
    obtain ⟨d, hd⟩ := exists_of_isOk hlive
    simp only [Machine.runMicro, hd, withOperand_ok]
    trivial
  | dly n | skip x y => trivial

theorem AtEntry.edgeMicro_next : ∃ t, Machine.edgeMicro m s = .next t := by
  obtain ⟨hlive, -, -⟩ := h.ok
  cases m with
  | wr8 a v =>
    obtain ⟨byte, hv⟩ := exists_of_isOk hlive
    exact ⟨_, by rw [Machine.edgeMicro, hv, withOperand_ok]⟩
  | setRes src =>
    obtain ⟨w, hw⟩ := exists_of_isOk hlive
    exact ⟨_, by rw [Machine.edgeMicro, hw, withOperand_ok]⟩
  | respond src st =>
    obtain ⟨d, hd⟩ := exists_of_isOk hlive
    exact ⟨_, by rw [Machine.edgeMicro, hd, withOperand_ok]⟩
  | init | rd8 a | rd16 a | dly n | skip x y => exact ⟨_, rfl⟩

end AtEntry

theorem SeqInv.microStep_stops {s : State} (h : SeqInv s) (hbusy : s.seq.busy = true) :
    OnlyEnvRefStops s.env.kind (Machine.microStep s) := by
  obtain ⟨m, hat⟩ := h.atEntry hbusy
  rw [Machine.microStep, atUpc_some hat.entry]
  exact hat.runMicro_stops

theorem SeqInv.runCommand_stops (n : Nat) {s : State} (h : SeqInv s) :
    OnlyEnvRefStops s.env.kind (Machine.runCommand n s) := by
  induction n generalizing s with
  | zero => trivial
  | succ n ih =>
    unfold Machine.runCommand
    split
    · rename_i hready
      obtain ⟨hbusy, hreq⟩ : s.seq.busy = true ∧ s.port.tReq = false := by simpa using hready
      have hstops := h.microStep_stops hbusy
      cases hm : Machine.microStep s with
      | next t => simpa only [hm, (microStep_rest hm).kind] using ih (h.microStep hbusy hreq hm)
      | fault x => simpa only [hm] using hstops
      | refused x => simpa only [hm] using hstops
    · trivial

theorem SeqInv.continueCommand_stops {s : State} (h : SeqInv s) (hbusy : s.seq.busy = true) :
    OnlyEnvRefStops s.env.kind (Machine.continueCommand s) := by
  unfold Machine.continueCommand
  split
  · exact h.runCommand_stops _
  · exact h.microStep_stops hbusy
  · obtain ⟨m, hat⟩ := h.atEntry hbusy
    obtain ⟨t, ht⟩ := hat.edgeMicro_next
    rw [Machine.edgeStep, atUpc_some hat.entry, ht]
    trivial

theorem SeqInv.command_stops {s : State} (h : SeqInv s) (op : Byte) (a b : Word) :
    OnlyEnvRefStops s.env.kind (Machine.command op a b s) := by
  cases hbusy : s.seq.busy with
  | true => rw [command_busy hbusy]; trivial
  | false => rw [command_ready hbusy]; exact (seqInv_accept h hbusy op a b).runCommand_stops _

theorem SeqInv.fetchCommand_stops {s : State} (h : SeqInv s) (hrst : s.rst = false) (hcodec : s.codecIn = none)
    (hreq : s.port.tReq = false) (hbusy : s.seq.busy = false) : OnlyEnvRefStops s.env.kind (Machine.step s) := by
  cases hhost : s.host with
  | nil => rw [step_idle hrst hcodec hreq hbusy hhost]; trivial
  | cons x rest =>
    cases x with
    | wait n => rw [step_wait hrst hcodec hreq hbusy hhost]; trivial
    | present w =>
      by_cases hgrain : s.grain = .command
      · rw [step_command hrst hcodec hreq hbusy hhost hgrain, exec_decodeCmd]
        exact SeqInv.command_stops (s := s.setHost rest) (h.of_same rfl rfl rfl) _ _ _
      · rw [step_accept hrst hcodec hreq hbusy hhost hgrain]; trivial

theorem SeqInv.step_stops {s : State} (h : SeqInv s) (hcodec : s.codecIn = none) :
    OnlyEnvRefStops s.env.kind (Machine.step s) := by
  cases hrst : s.rst with
  | true => rw [step_reset hrst]; trivial
  | false =>
    cases hreq : s.port.tReq with
    | true =>
      obtain ⟨m, f, -, -, hasks⟩ := h.openRequest hreq
      rw [step_handshake hrst hcodec hreq, runWord_of_decode (decode_word_of_asks hasks), exec_request]
      exact transact_stops f s
    | false =>
      cases hbusy : s.seq.busy with
      | true => rw [step_busy hrst hcodec hreq hbusy]; exact h.continueCommand_stops hbusy
      | false => exact h.fetchCommand_stops hrst hcodec hreq hbusy

/-- The codec raises no fault (spec/40_codec.md). -/
theorem step_codec_no_fault {s : State} {p : CodecSel × Word} (hcodec : s.codecIn = some p) (f : Fault) :
    step s ≠ .fault f := by
  obtain ⟨sel, w⟩ := p
  cases hrst : s.rst with
  | true => rw [step_reset hrst]; nofun
  | false =>
    rw [step_codec hrst hcodec]
    cases hdec : decode (.codec sel w) with
    | ok i =>
      obtain ⟨o, ho⟩ := exec_codec hdec s
      rw [runWord_of_decode hdec, ho]
      nofun
    | error x => rw [runWord, hdec]; nofun

/-- Settles O52: the entry at `upc` is there and its operands are live, so a fault is the environment's. -/
theorem onlyTheTransportFaults : Obligations.OnlyTheTransportFaults := by
  intro s f ⟨hseq, _⟩ hfault
  cases hcodec : s.codecIn with
  | some p => exact absurd hfault (step_codec_no_fault hcodec f)
  | none =>
    have hstops := hseq.step_stops hcodec
    rw [hfault] at hstops
    exact hstops.2

/-- Settles O53: the only stops are ENV-REF's. -/
theorem oracleNeverStopsTheBlock : Obligations.OracleNeverStopsTheBlock := by
  intro s ⟨hseq, _⟩ hk hcodec
  have hstops := hseq.step_stops hcodec
  cases hstep : step s with
  | next t => exact ⟨t, rfl⟩
  | fault x =>
    rw [hstep] at hstops
    obtain ⟨henv, -⟩ := hstops
    exact absurd hk (by simp [henv])
  | refused x =>
    rw [hstep] at hstops
    have henv : s.env.kind = .envRef := hstops
    exact absurd hk (by simp [henv])

end Sys2Proof.Machine
end
section
/-! PROOF. What runs of any length do, from any state: time and history go forward (spec/00_scope.md R9,
spec/20_memory.md R52, R157), and a command ends (spec/10_state.md R17, spec/60_exceptions.md R138). -/

namespace Sys2Proof.Machine

/-! ## Time and history -/

/-- From `e` to `e'` the history has grown at its end, and time has not run backwards. -/
structure Env.Onward (e e' : Env) : Prop where
  history : ∃ l, e'.history = e.history ++ l
  now : e.now ≤ e'.now

theorem Env.Onward.refl (e : Env) : Env.Onward e e := ⟨⟨[], by simp⟩, Nat.le_refl _⟩

theorem Env.Onward.trans {e e' e'' : Env} (h : Env.Onward e e') (g : Env.Onward e' e'') : Env.Onward e e'' := by
  obtain ⟨⟨l, hl⟩, hnow⟩ := h
  obtain ⟨⟨l', hl'⟩, hnow'⟩ := g
  exact ⟨⟨l ++ l', by rw [hl', hl, List.append_assoc]⟩, Nat.le_trans hnow hnow'⟩

theorem Env.Onward.of_quiet {e e' : Env} (hhist : e'.history = e.history) (hnow : e.now ≤ e'.now) :
    Env.Onward e e' :=
  ⟨⟨[], by simp [hhist]⟩, hnow⟩

theorem transact_onward {f : Frame} {s t : State} (h : transact f s = .next t) : Env.Onward s.env t.env := by
  obtain ⟨-, -, rfl⟩ | ⟨d, sv, -, hs, rfl⟩ := transact_next h
  · exact .of_quiet rfl (Nat.le_succ _)
  · obtain ⟨-, hnow, hhist, -⟩ := serve_next hs
    exact ⟨⟨_, hhist⟩, by simp [hnow]⟩

theorem endDelay_onward (n : Nat) (s : State) : Env.Onward s.env (endDelay n s).env := ⟨⟨_, rfl⟩, Nat.le_refl _⟩

theorem delay_onward (n : Nat) (s : State) : Env.Onward s.env (delay n s).env :=
  ⟨⟨_, rfl⟩, Nat.le_add_right _ _⟩

theorem tick_onward (s : State) : Env.Onward s.env (tick s).env := .of_quiet rfl (Nat.le_succ _)

theorem elapseLag_onward (e : Env) : Env.Onward e e.elapseLag := .of_quiet rfl (Nat.le_add_right _ _)

theorem respond_onward (d : Word) (st : RspStatus) (s : State) : Env.Onward s.env (respond d st s).env :=
  ⟨⟨_, rfl⟩, Nat.le_add_right _ _⟩

theorem runMicro_onward {m : Micro} {s t : State} (h : runMicro m s = .next t) : Env.Onward s.env t.env := by
  obtain ⟨f, hf, -⟩ | ⟨n, -, rfl⟩ | ⟨src, w, -, -, rfl⟩ | ⟨x, y, -, rfl⟩ | ⟨src, st, d, -, -, rfl⟩ :=
    runMicro_next h
  · exact transact_onward hf
  · exact delay_onward n s
  · exact elapseLag_onward s.env
  · exact elapseLag_onward s.env
  · exact respond_onward d st s

theorem microStep_onward {s t : State} (h : microStep s = .next t) : Env.Onward s.env t.env := by
  obtain ⟨m, -, hm⟩ := atUpc_next h
  exact runMicro_onward hm

theorem runCommand_onward {n : Nat} {s t : State} (h : runCommand n s = .next t) : Env.Onward s.env t.env :=
  runCommand_keeps (P := fun u => Env.Onward s.env u.env)
    (fun _ _ _ _ hstep hu => hu.trans (microStep_onward hstep)) n s t h (.refl _)

theorem delayEdge_onward (n : Nat) (s : State) : Env.Onward s.env (delayEdge n s).env := by
  unfold delayEdge
  split
  · split
    · exact endDelay_onward n s
    · exact .refl _
  · split
    · exact (tick_onward s).trans (endDelay_onward n _)
    · exact tick_onward s

theorem edgeStep_onward {s t : State} (h : edgeStep s = .next t) : Env.Onward s.env t.env := by
  obtain ⟨m, -, hm⟩ := atUpc_next h
  cases m with
  | init | rd8 a | rd16 a => cases hm; exact .refl _
  | wr8 a v => obtain ⟨byte, -, ht⟩ := withOperand_next hm; cases ht; exact .refl _
  | dly n => cases hm; exact delayEdge_onward n s
  | setRes src => obtain ⟨w, -, ht⟩ := withOperand_next hm; cases ht; exact elapseLag_onward s.env
  | skip x y => cases hm; exact elapseLag_onward s.env
  | respond src st => obtain ⟨d, -, ht⟩ := withOperand_next hm; cases ht; exact respond_onward d st s

theorem continueCommand_onward {s t : State} (h : continueCommand s = .next t) : Env.Onward s.env t.env := by
  unfold continueCommand at h
  split at h
  · exact runCommand_onward h
  · exact microStep_onward h
  · exact edgeStep_onward h

theorem command_onward {op : Byte} {a b : Word} {s t : State} (h : command op a b s = .next t) :
    Env.Onward s.env t.env := by
  cases hbusy : s.seq.busy with
  | true => rw [command_busy hbusy] at h; cases h; exact .refl _
  | false => rw [command_ready hbusy] at h; have hrun := runCommand_onward h; exact hrun

/-- An instruction is a command or illegal word, a micro-operation of the transport, or a layout of the codec. -/
theorem exec_forms (i : Instr) :
    (∃ op a b, ∀ s, exec i s = command op a b s) ∨ (∃ f, ∀ s, exec i s = transact f s)
      ∨ ∀ s, ∃ o, exec i s = .next (s.setCodec o) := by
  cases i with
  | rd8 | rd16 | wr8 | initTransport | frameRdConfig | frameRdRtd | frameRdHthr | frameRdLthr | frameRdFault
  | frameWrConfig | frameWrHthrMsb | frameWrHthrLsb | frameWrLthrMsb | frameWrLthrLsb =>
    exact .inr (.inl ⟨_, fun _ => rfl⟩)
  | configReg | faultReg | rtdWord | thresholdWord => exact .inr (.inr fun _ => ⟨_, rfl⟩)
  | _ => exact .inl ⟨_, _, _, fun _ => rfl⟩

theorem exec_onward {i : Instr} {s t : State} (h : exec i s = .next t) : Env.Onward s.env t.env := by
  obtain ⟨op, a, b, hexec⟩ | ⟨f, hexec⟩ | hexec := exec_forms i
  · exact command_onward (hexec s ▸ h)
  · exact transact_onward (hexec s ▸ h)
  · obtain ⟨o, ho⟩ := hexec s
    rw [ho] at h
    cases h
    exact .refl _

/-- A step that is no reset keeps the parameters, and goes forward in time and history. -/
theorem step_onward {s t : State} (h : step s = .next t) (hrst : s.rst = false) :
    t.cfg = s.cfg ∧ Env.Onward s.env t.env := by
  have hexec : ∀ {i u}, u.cfg = s.cfg → u.env = s.env → exec i u = .next t → t.cfg = s.cfg ∧ Env.Onward s.env t.env :=
    fun hcfg henv h => by
      obtain ⟨hkeep, -⟩ := exec_keeps h
      exact ⟨hkeep.trans hcfg, henv ▸ exec_onward h⟩
  obtain ⟨htrue, -⟩ | ⟨-, _, _, i, -, -, h⟩ | ⟨-, -, -, i, -, h⟩ | ⟨-, -, -, -, hcont⟩ | ⟨-, -, -, -, hport⟩ :=
    step_next h
  · exact absurd htrue (by simp [hrst])
  · exact hexec rfl rfl h
  · exact hexec rfl rfl h
  · exact ⟨(continueCommand_rest hcont).cfg, continueCommand_onward hcont⟩
  · obtain ⟨-, rfl⟩ | ⟨n, rest, -, rfl⟩ | ⟨w, rest, -, -, h⟩ | ⟨w, rest, -, -, rfl⟩ := hport
    · exact ⟨rfl, tick_onward s⟩
    · exact ⟨rfl, .of_quiet rfl (Nat.le_add_right _ _)⟩
    · exact hexec (u := s.setHost rest) rfl rfl h
    · exact ⟨rfl, .refl _⟩

/-- Settles O54: a reset sets `now` to 0 and leaves the history, and every other step goes forward. -/
theorem stepKeepsParametersAndHistory : Obligations.StepKeepsParametersAndHistory := by
  intro s t h
  cases hrst : s.rst with
  | true =>
    rw [step_reset hrst] at h
    cases h
    obtain ⟨-, hhist, -⟩ := afterReset_keeps s.seq.busy s.port.tReq s.env
    exact ⟨rfl, ⟨[], by simp [applyReset, hhist]⟩, nofun, fun _ => afterReset_now _ _ _⟩
  | false =>
    obtain ⟨hcfg, hhist, hnow⟩ := step_onward h hrst
    exact ⟨hcfg, hhist, fun _ => hnow, nofun⟩

/-! ## A command ends -/

/-- A micro-step of a busy block responds, leaves a handshake open that is never answered, or goes on to an entry
further on in its program (R17, R131, R138). -/
theorem microStep_goes {s t : State} (hbusy : s.seq.busy = true) (hreq : s.port.tReq = false)
    (h : microStep s = .next t) :
    (∃ src st d, Micro.respond src st ∈ currentProgram s.cfg s.seq ∧ t = respond d st s)
      ∨ (t.seq.busy = true ∧ t.port.tReq = true ∧ (t.env.answerAt 0).duration = none)
      ∨ (t.seq.busy = true ∧ t.port.tReq = false ∧ currentProgram t.cfg t.seq = currentProgram s.cfg s.seq
          ∧ s.seq.upc.toNat < t.seq.upc.toNat
          ∧ t.seq.upc.toNat < (currentProgram s.cfg s.seq).length) := by
  obtain ⟨m, hm, hrun⟩ := atUpc_next h
  have hlinked := microProgram_linked s.cfg (decodeFields s.seq.op s.seq.a s.seq.b)
  have hto : ∀ j, j ∈ m.successors s.seq.upc.toNat →
      s.seq.upc.toNat < j ∧ j < (currentProgram s.cfg s.seq).length := fun j hj => by
    obtain ⟨m', hentry, hlt, -⟩ := linked_successor hlinked hm hj
    exact ⟨hlt, (List.getElem?_eq_some_iff.mp hentry).1⟩
  have hlen : (currentProgram s.cfg s.seq).length ≤ 14 := microProgram_length _ _
  have hnext : m.successors s.seq.upc.toNat = [s.seq.upc.toNat + 1] →
      s.seq.upc.toNat < (s.seq.upc + 1#4).toNat
        ∧ (s.seq.upc + 1#4).toNat < (currentProgram s.cfg s.seq).length := fun hsucc => by
    obtain ⟨-, hlt⟩ := hto _ (hsucc ▸ List.mem_singleton.mpr rfl)
    have hupc : (s.seq.upc + 1#4).toNat = s.seq.upc.toNat + 1 := by bv_omega
    omega
  obtain ⟨f, hf, hkind⟩ | ⟨n, rfl, rfl⟩ | ⟨src, w, rfl, -, rfl⟩ | ⟨x, y, rfl, rfl⟩ | ⟨src, st, d, rfl, -, rfl⟩ :=
    runMicro_next hrun
  · obtain ⟨hsucc, -⟩ := frame_kind (frame_of_kind hkind) s.seq.upc.toNat
    obtain ⟨hd, -, rfl⟩ | ⟨d, sv, -, -, rfl⟩ := transact_next hf
    · exact .inr (.inl ⟨hbusy, openHandshake_tReq f s, hd⟩)
    · refine .inr (.inr ⟨by simp [hbusy], rfl, (takeBytes_sameEntry f _ _ s.seq).program s.cfg, ?_⟩)
      rw [closeHandshake_seq, finish_upc, takeBytes_upc]
      exact hnext hsucc
  · exact .inr (.inr ⟨hbusy, hreq, rfl, hnext rfl⟩)
  · exact .inr (.inr ⟨hbusy, hreq, rfl, hnext rfl⟩)
  · refine .inr (.inr ⟨hbusy, hreq, rfl, hto _ ?_⟩)
    show (if s.cfg.biasNormallyOff then x else y).toNat ∈ [x.toNat, y.toNat]
    cases s.cfg.biasNormallyOff <;> simp
  · exact .inl ⟨src, st, d, List.mem_of_getElem? hm, rfl⟩

/-- The command has responded, with the status of a response of its program, or stands at a handshake the transport
never answers. -/
def Ended (p : List Micro) (t : State) : Prop :=
  (t.seq.busy = false ∧ t.seq.rspValid = true ∧ t.port.tReq = false
      ∧ ∃ src, Micro.respond src t.seq.rspStatus ∈ p)
    ∨ (t.seq.busy = true ∧ t.port.tReq = true ∧ (t.env.answerAt 0).duration = none)

/-- With fuel for the entries that are left a command ends: `upc` grows until it does. -/
theorem runCommand_ends {p : List Micro} :
    ∀ (n : Nat) (s t : State), s.seq.busy = true → s.port.tReq = false → currentProgram s.cfg s.seq = p →
      s.seq.upc.toNat < p.length → p.length ≤ n + s.seq.upc.toNat → runCommand n s = .next t → Ended p t := by
  intro n
  induction n with
  | zero => intro s t _ _ _ hlt hfuel _; omega
  | succ n ih =>
    intro s t hbusy hreq hp hlt hfuel hrun
    cases hm : microStep s with
    | fault x => simp [runCommand, hbusy, hreq, hm] at hrun
    | refused x => simp [runCommand, hbusy, hreq, hm] at hrun
    | next u =>
      rw [runCommand_step hbusy hreq hm] at hrun
      obtain ⟨src, st, d, hmem, rfl⟩ | ⟨hbusyu, hrequ, hd⟩ | ⟨hbusyu, hrequ, hpu, hgrow, hltu⟩ :=
        microStep_goes hbusy hreq hm
      · rw [runCommand_done (.inl rfl)] at hrun
        cases hrun
        exact .inl ⟨rfl, rfl, hreq, src, hp ▸ hmem⟩
      · rw [runCommand_done (.inr hrequ)] at hrun
        cases hrun
        exact .inr ⟨hbusyu, hrequ, hd⟩
      · exact ih u t hbusyu hrequ (hpu.trans hp) (hp ▸ hltu) (by omega) hrun

theorem command_ends {op : Byte} {a b : Word} {s t : State} (hbusy : s.seq.busy = false)
    (hreq : s.port.tReq = false) (h : command op a b s = .next t) :
    Ended (microProgram s.cfg (decodeFields op a b)) t := by
  rw [command_ready hbusy] at h
  obtain ⟨m, hm⟩ := exists_first_entry s.cfg op a b
  have hlen := microProgram_length s.cfg (decodeFields op a b)
  refine runCommand_ends commandFuel (accept op a b s) t rfl hreq rfl (List.getElem?_eq_some_iff.mp hm).1 ?_ h
  exact Nat.le_trans hlen (by decide : 14 ≤ 16 + 0)

/-- If the entry responds, then with `rsp_status` 0. -/
def Micro.respondsOk : Micro → Bool
  | .respond _ st => st == .ok
  | .init | .rd8 _ | .rd16 _ | .wr8 _ _ | .dly _ | .setRes _ | .skip _ _ => true

/-- The response of a command has `rsp_status` 0 (R22). -/
theorem microProgram_respondsOk {i : Instr} (hi : isCommand i = true) (cfg : Config) :
    (microProgram cfg i).all Micro.respondsOk = true := by
  cases i with
  | enableBias on => cases on <;> rfl
  | autoConvert on => cases on <;> rfl
  | beginCmd | readRtd | readFault | clearFault | setWires | setThresholds | getLowerThreshold
  | getUpperThreshold => rfl
  | _ => cases hi

theorem status_of_isCommand {cfg : Config} {i : Instr} {src : RspSrc} {st : RspStatus} (hi : isCommand i = true)
    (h : Micro.respond src st ∈ microProgram cfg i) : st = .ok := by
  have hok := List.all_eq_true.mp (microProgram_respondsOk hi cfg) _ h
  simpa [Micro.respondsOk] using hok

/-- The word of a command selects the command's own program (R15, R65). -/
theorem exists_commandFields {i : Instr} (hi : isCommand i = true) :
    ∃ op a b, (∀ s, exec i s = command op a b s) ∧ decodeFields op a b = i := by
  cases i with
  | beginCmd mode x b => exact ⟨_, _, _, fun _ => rfl, decodeFields_begin mode x b⟩
  | setWires mode x b => exact ⟨_, _, _, fun _ => rfl, decodeFields_setWires mode x b⟩
  | enableBias on x b => exact ⟨_, _, _, fun _ => rfl, decodeFields_enableBias on x b⟩
  | autoConvert on x b => exact ⟨_, _, _, fun _ => rfl, decodeFields_autoConvert on x b⟩
  | readRtd | readFault | clearFault | setThresholds | getLowerThreshold | getUpperThreshold =>
    exact ⟨_, _, _, fun _ => rfl, rfl⟩
  | _ => cases hi

/-- Settles O56: a command's program is shorter than the fuel, and each of its responses has status 0. -/
theorem commandsRespondOrHang : Obligations.CommandsRespondOrHang := by
  intro i s t hi hbusy hreq h
  obtain ⟨op, a, b, hexec, hdec⟩ := exists_commandFields hi
  rw [hexec] at h
  have hend := command_ends hbusy hreq h
  rw [hdec] at hend
  refine hend.imp_left ?_
  rintro ⟨hidle, hvalid, hclosed, src, hmem⟩
  exact ⟨hidle, hvalid, status_of_isCommand hi hmem, hclosed⟩

end Sys2Proof.Machine
end
section
/-! PROOF. The finer grains carry out the coarser (log 1): edges a micro-step (spec/10_state.md R28,
spec/41_bus_primitives.md R96, R101), micro-steps a command (spec/42_configuration.md R105). -/

namespace Sys2Proof.Machine

theorem stepN_succ {n : Nat} {s t : State} (h : step s = .next t) : stepN (n + 1) s = stepN n t := by
  rw [stepN, h]

/-! ## Edges carry out a micro-step -/

/-- The edges of a command: the block is busy at entry `m` in the edge grain, and nothing comes before it in R142's
order. -/
structure EdgeAt (m : Micro) (s : State) : Prop where
  grain : s.grain = .edge
  rst : s.rst = false
  codecIn : s.codecIn = none
  tReq : s.port.tReq = false
  busy : s.seq.busy = true
  entry : (currentProgram s.cfg s.seq)[s.seq.upc.toNat]? = some m

theorem EdgeAt.step {m : Micro} {s : State} (h : EdgeAt m s) : step s = edgeMicro m s := by
  rw [step_busy h.rst h.codecIn h.tReq h.busy, continueCommand, h.grain]
  exact atUpc_some h.entry

/-- An entry with neither transport activity nor delay is one edge. -/
theorem EdgeAt.one {m : Micro} {s t : State} (h : EdgeAt m s) (hedge : edgeMicro m s = .next t) :
    stepN 1 s = .next t := by
  rw [stepN_succ (h.step.trans hedge)]
  rfl

/-- What is not driven keeps its value while the handshake is open (R28, log 12). -/
theorem openHandshake_again (f : Frame) (s : State) : openHandshake f (openHandshake f s) = openHandshake f s := by
  cases f <;> simp [openHandshake, undriven, State.setPort]

/-- The operation whose request is raised already. -/
theorem transact_openHandshake (f : Frame) (s : State) : transact f (openHandshake f s) = transact f s := by
  simp only [transact, openHandshake_again, openHandshake_cfg]

theorem edgeMicro_of_frame {m : Micro} {f : Frame} {s : State} (h : m.frame s.cfg s.seq = some f) :
    edgeMicro m s = .next (openHandshake f s) := by
  cases m with
  | init | rd8 a | rd16 a => cases h; rfl
  | wr8 a v =>
    cases hv : v.eval s.cfg s.seq with
    | ok byte => simp only [Micro.frame, hv, Option.some.injEq] at h; simp [edgeMicro, hv, h]
    | error x => simp [Micro.frame, hv] at h
  | dly n | setRes src | skip x y | respond src st => cases h

/-- The request, then what becomes of it (R28). -/
theorem EdgeAt.transact {m : Micro} {f : Frame} {s t : State} (h : EdgeAt m s)
    (hf : m.frame s.cfg s.seq = some f) (ht : transact f s = .next t) : stepN 2 s = .next t := by
  have hopen : Machine.step (openHandshake f s) = .next t := by
    rw [step_handshake (s := openHandshake f s) h.rst h.codecIn (openHandshake_tReq f s),
      runWord_of_decode (decode_word_of_asks (openHandshake_asks f s)), exec_request, transact_openHandshake, ht]
  rw [stepN_succ (h.step.trans (edgeMicro_of_frame hf)), stepN_succ hopen]
  rfl

/-- A delay lasts what is left of it (R101). -/
theorem delay_eq (n : Nat) (s : State) :
    delay n s = endDelay n (s.setEnv { s.env with now := s.env.now + delayLeft n s }) := rfl

theorem delayLeft_of_counting {n : Nat} {s : State} (h : s.seq.tmr ≠ 0) : delayLeft n s = s.seq.tmr := if_neg h

/-- Loading TMR takes nothing from the delay (log 23). -/
theorem delay_load {n : Nat} {s : State} (h0 : s.seq.tmr = 0) (hn : n ≠ 0) :
    delay n (s.setSeq (s.seq.setTmr n)) = delay n s := by
  have hs : delayLeft n s = n := if_pos h0
  have hu : delayLeft n (s.setSeq (s.seq.setTmr n)) = n := delayLeft_of_counting hn
  rw [delay_eq, delay_eq, hs, hu]
  rfl

/-- A tick takes one tick from the delay (R101). -/
theorem delay_count {n j : Nat} {s : State} (h : s.seq.tmr = j + 2) :
    delay n ((tick s).setSeq (s.seq.setTmr (j + 1))) = delay n s := by
  have hs : delayLeft n s = j + 2 := (delayLeft_of_counting (by omega)).trans h
  have hu : delayLeft n ((tick s).setSeq (s.seq.setTmr (j + 1))) = j + 1 := delayLeft_of_counting nofun
  have hnow : s.env.now + 1 + (j + 1) = s.env.now + (j + 2) := by omega
  rw [delay_eq, delay_eq, hs, hu, ← hnow]
  rfl

/-- A delay that counts ends with the edge that brings TMR to 0 (R101). -/
theorem stepN_counting {n : Nat} :
    ∀ (j : Nat) (s : State), EdgeAt (.dly n) s → s.seq.tmr = j + 1 → stepN (j + 1) s = .next (delay n s) := by
  intro j
  induction j with
  | zero =>
    intro s h htmr
    have hend : delayEdge n s = delay n s := by
      rw [delayEdge_last htmr, delay_eq, delayLeft_of_counting (by omega), htmr]
      rfl
    rw [stepN_succ h.step, ← hend]
    rfl
  | succ j ih =>
    intro s h htmr
    have hcount : delayEdge n s = (tick s).setSeq (s.seq.setTmr (j + 1)) := by
      simp [delayEdge, htmr]
    have hstep : step s = .next ((tick s).setSeq (s.seq.setTmr (j + 1))) := by
      rw [h.step, edgeMicro, hcount]
    rw [stepN_succ hstep, ← delay_count htmr]
    exact ih _ ⟨h.grain, h.rst, h.codecIn, h.tReq, h.busy, h.entry⟩ rfl

/-- The edges of a delay from wherever it stands. -/
theorem EdgeAt.delay {n : Nat} {s : State} (h : EdgeAt (.dly n) s) : ∃ k, stepN k s = .next (delay n s) := by
  cases htmr : s.seq.tmr with
  | succ j => exact ⟨j + 1, stepN_counting j s h htmr⟩
  | zero =>
    cases n with
    | zero =>
      have hend : delayEdge 0 s = Machine.delay 0 s := by
        rw [delay_eq, delayLeft, if_pos htmr]
        simp only [delayEdge, htmr, if_true]
        rfl
      exact ⟨1, h.one (congrArg Host.Outcome.next hend)⟩
    | succ n =>
      have hstep : Machine.step s = .next (s.setSeq (s.seq.setTmr (n + 1))) := by
        rw [h.step, edgeMicro, delayEdge, if_pos htmr, if_neg (Nat.succ_ne_zero n)]
      refine ⟨n + 1 + 1, ?_⟩
      rw [stepN_succ hstep, ← delay_load htmr (Nat.succ_ne_zero n)]
      exact stepN_counting n _ ⟨h.grain, h.rst, h.codecIn, h.tReq, h.busy, h.entry⟩ rfl

/-- Settles O58: a request and its answer are two edges, a delay its load and its ticks, any other entry one. -/
theorem edgesRefineMicroSteps : Obligations.EdgesRefineMicroSteps := by
  intro s t _ hgrain hrst hcodec hreq hbusy h
  obtain ⟨m, hm, hrun⟩ := atUpc_next h
  have hedge : EdgeAt m s := ⟨hgrain, hrst, hcodec, hreq, hbusy, hm⟩
  obtain ⟨f, hf, hkind⟩ | ⟨n, rfl, rfl⟩ | ⟨src, w, rfl, hw, rfl⟩ | ⟨x, y, rfl, rfl⟩ | ⟨src, st, d, rfl, hd, rfl⟩ :=
    runMicro_next hrun
  · exact ⟨2, hedge.transact (frame_of_kind hkind) hf⟩
  · exact hedge.delay
  · exact ⟨1, hedge.one (by rw [edgeMicro, hw, withOperand_ok])⟩
  · exact ⟨1, hedge.one rfl⟩
  · exact ⟨1, hedge.one (by rw [edgeMicro, hd, withOperand_ok])⟩

/-! ## Micro-steps carry out a command -/

/-- In the micro grain a command goes on by one micro-step a step, until it stops. -/
theorem stepN_of_runCommand :
    ∀ (n : Nat) (s t : State), s.grain = .micro → s.rst = false → s.codecIn = none → runCommand n s = .next t →
      ∃ k ≤ n, stepN k s = .next t := by
  intro n
  induction n with
  | zero => intro s t _ _ _ h; exact ⟨0, Nat.le_refl 0, h⟩
  | succ n ih =>
    intro s t hgrain hrst hcodec h
    by_cases hgoes : s.seq.busy = true ∧ s.port.tReq = false
    · obtain ⟨hbusy, hreq⟩ := hgoes
      have hstep : step s = microStep s := by
        rw [step_busy hrst hcodec hreq hbusy, continueCommand, hgrain]
      cases hm : microStep s with
      | fault x => simp [runCommand, hbusy, hreq, hm] at h
      | refused x => simp [runCommand, hbusy, hreq, hm] at h
      | next u =>
        have hrest := microStep_rest hm
        rw [runCommand_step hbusy hreq hm] at h
        obtain ⟨k, hk, hrun⟩ :=
          ih u t (hrest.grain.trans hgrain) (hrest.rst.trans hrst) (hrest.codecIn.trans hcodec) h
        exact ⟨k + 1, Nat.succ_le_succ hk, (stepN_succ (hstep.trans hm)).trans hrun⟩
    · have hstops : s.seq.busy = false ∨ s.port.tReq = true := by
        simpa [imp_iff_not_or] using hgoes
      rw [runCommand_done hstops] at h
      exact ⟨0, Nat.zero_le _, h⟩

/-- Settles O59: the acceptance, then a micro-step a step. -/
theorem microStepsRefineCommands : Obligations.MicroStepsRefineCommands := by
  intro w rest s t hgrain hrst hcodec hreq hbusy hhost h
  have hstep := step_accept hrst hcodec hreq hbusy hhost (by simp [hgrain])
  have hrun : runCommand commandFuel (accept (cmdOp w) (cmdA w) (cmdB w) (s.setHost rest)) = .next t := by
    rw [← command_ready (s := s.setHost rest) hbusy, ← exec_decodeCmd]
    exact h
  obtain ⟨k, hk, hsteps⟩ := stepN_of_runCommand commandFuel
    (accept (cmdOp w) (cmdA w) (cmdB w) (s.setHost rest)) t hgrain hrst hcodec hrun
  exact ⟨k + 1, Nat.succ_le_succ hk, (stepN_succ hstep).trans hsteps⟩

end Sys2Proof.Machine
end
section
/-! PROOF. A command in front of the oracle, entry by entry and exactly: the registers, the port, and a time line of
what has happened (spec/20_memory.md R52, spec/41_bus_primitives.md R96 to R101). -/

namespace Sys2Proof.Machine

/-! ## Time lines -/

theorem ticksOfTimeline_append (l l' : List (Option EventKind × Nat)) :
    ticksOfTimeline (l ++ l') = ticksOfTimeline l + ticksOfTimeline l' := by
  induction l with
  | nil => simp [ticksOfTimeline]
  | cons x l ih => simp [ticksOfTimeline, ih, Nat.add_assoc]

theorem timeline_append (now : Nat) (l l' : List (Option EventKind × Nat)) :
    timeline now (l ++ l') = timeline now l ++ timeline (now + ticksOfTimeline l) l' := by
  induction l generalizing now with
  | nil => rfl
  | cons x l ih =>
    obtain ⟨ev, d⟩ := x
    cases ev <;> simp [timeline, ticksOfTimeline, ih, Nat.add_assoc]

/-- A time line's events are what its entries record, whatever their durations. -/
theorem timeline_what (now : Nat) (l : List (Option EventKind × Nat)) :
    (timeline now l).map (fun e => e.what) = l.filterMap Prod.fst := by
  induction l generalizing now with
  | nil => rfl
  | cons x l ih =>
    obtain ⟨ev, d⟩ := x
    cases ev <;> simp [timeline, ih]

/-! ## The state on the way -/

/-- The environment after `ops` operations of the oracle and `lags` other micro-steps, the transport as it is now. -/
def Env.ran (e : Env) (tr : TransportState) (ops lags : Nat) (l : List (Option EventKind × Nat)) : Env :=
  { e.passed ops lags l with transport := tr }

/-- What a command that runs in front of the oracle has made of the state `s` it was presented in: the registers are
`q`, the port shows `p`, and the time line `l` has gone by. -/
def State.ran (s : State) (q : Seq) (p : TPort) (tr : TransportState) (ops lags : Nat)
    (l : List (Option EventKind × Nat)) : State :=
  { s with seq := q, port := p, env := s.env.ran tr ops lags l }

/-- The port after an operation: its request but for `t_req` (log 12). -/
def Frame.portAfter (w0 w1 : Byte) : Frame → TPort
  | .init => ⟨false, 0#2, w0, w1, 0#2⟩
  | .read1 a => ⟨false, 2#2, addrRd a, w1, 1#2⟩
  | .read2 a => ⟨false, 2#2, addrRd a, w1, 2#2⟩
  | .write a v => ⟨false, 1#2, addrWr a, v, 0#2⟩

/-- The transport after an operation (R60). -/
def Frame.transportAfter (tr : TransportState) : Frame → TransportState
  | .init => .ready
  | .read1 _ | .read2 _ | .write _ _ => tr

theorem openHandshake_closed (f : Frame) (s : State) :
    ∃ w0 w1, { (openHandshake f s).port with tReq := false } = f.portAfter w0 w1 := by
  refine ⟨(openHandshake f s).port.tW0, (openHandshake f s).port.tW1, ?_⟩
  cases f <;> rfl

section Ran
variable (e : Env) (tr : TransportState) (ops lags : Nat) (l : List (Option EventKind × Nat))

theorem ran_answerAt : (e.ran tr ops lags l).answerAt 0 = e.answerAt ops := by
  simp [Env.ran, Env.passed, Env.answerAt]

theorem ran_lagAt : (e.ran tr ops lags l).lagAt 0 = e.lagAt lags := by
  simp [Env.ran, Env.passed, Env.lagAt]

/-- One more operation on the time line (R52). -/
theorem ran_account (f : Frame) (r0 r1 : Byte) (d : Nat) :
    Env.account f r0 r1 d (if f = .init then { e.ran tr ops lags l with transport := .ready } else e.ran tr ops lags l)
      = e.ran (f.transportAfter tr) (ops + 1) lags (l ++ [(some (frameEvent f r0 r1), d)]) := by
  have hbase : (if f = .init then { e.ran tr ops lags l with transport := .ready } else e.ran tr ops lags l)
      = e.ran (f.transportAfter tr) ops lags l := by
    cases f <;> rfl
  rw [hbase]
  simp [Env.account, Env.record, Env.ran, Env.passed, timeline_append, ticksOfTimeline_append, timeline,
    ticksOfTimeline, Nat.add_assoc]

/-- One more micro-step that records nothing. -/
theorem ran_elapseLag :
    (e.ran tr ops lags l).elapseLag = e.ran tr ops (lags + 1) (l ++ [(none, e.lagAt lags)]) := by
  rw [Env.elapseLag, ran_lagAt]
  simp [Env.ran, Env.passed, timeline_append, ticksOfTimeline_append, timeline, ticksOfTimeline, Nat.add_assoc]

end Ran

section Steps
variable (s : State) (q : Seq) (pt : TPort) (tr : TransportState) (ops lags : Nat)
  (l : List (Option EventKind × Nat))

theorem accept_eq_ran (op : Byte) (a b : Word) :
    accept op a b s = s.ran (s.seq.accept op a b) s.port s.env.transport 0 0 [] := by
  simp [accept, State.setSeq, State.ran, Env.ran, Env.passed, timeline, ticksOfTimeline]

theorem setResult_ran (w : Word) :
    setResult w (s.ran q pt tr ops lags l)
      = s.ran ((q.loadRes w).finish s.cfg.biasNormallyOff) pt tr ops (lags + 1)
          (l ++ [(none, s.env.lagAt lags)]) := by
  rw [State.ran, State.ran, ← ran_elapseLag]
  rfl

theorem skip_ran (x y : BitVec 4) :
    skip x y (s.ran q pt tr ops lags l)
      = s.ran (q.jump s.cfg.biasNormallyOff (if s.cfg.biasNormallyOff then x else y)) pt tr ops (lags + 1)
          (l ++ [(none, s.env.lagAt lags)]) := by
  rw [State.ran, State.ran, ← ran_elapseLag]
  rfl

theorem respond_ran (d : Word) (st : RspStatus) :
    respond d st (s.ran q pt tr ops lags l)
      = s.ran (q.respond d st) pt tr ops (lags + 1) (l ++ [(some (.response d st), s.env.lagAt lags)]) := by
  have hlag : (s.ran q pt tr ops lags l).env.lagAt 0 = s.env.lagAt lags := ran_lagAt s.env tr ops lags l
  rw [respond, Env.elapseLag, hlag]
  simp [State.ran, Env.record, Env.ran, Env.passed, timeline_append, ticksOfTimeline_append, timeline,
    ticksOfTimeline, Nat.add_assoc]

theorem delay_ran (n : Nat) (htmr : q.tmr = 0) :
    delay n (s.ran q pt tr ops lags l)
      = s.ran (q.finish s.cfg.biasNormallyOff) pt tr ops lags (l ++ [(some (.delayElapsed n), n)]) := by
  have hq : q.setTmr 0 = q := by rw [← htmr]; rfl
  have hbegan : s.env.now + (ticksOfTimeline l + n) - n = s.env.now + ticksOfTimeline l := by omega
  simp [delay, endDelay, delayLeft, State.setEnv, State.ran, htmr, hq, Env.record, Env.ran, Env.passed, timeline_append,
    ticksOfTimeline_append, timeline, ticksOfTimeline, Nat.add_assoc, hbegan]

/-- The oracle serves an operation (R52). -/
theorem transact_ran (f : Frame) (hk : s.env.kind = .oracle)
    (hd : (s.env.answerAt ops).duration = some (s.env.dur ops)) :
    ∃ w0 w1, transact f (s.ran q pt tr ops lags l)
      = .next (s.ran ((takeBytes f (s.env.byte0 ops) (s.env.byte1 ops) q).finish s.cfg.biasNormallyOff)
          (f.portAfter w0 w1) (f.transportAfter tr) (ops + 1) lags
          (l ++ [(some (frameEvent f (s.env.byte0 ops) (s.env.byte1 ops)), s.env.dur ops)])) := by
  obtain ⟨w0, w1, hport⟩ := openHandshake_closed f (s.ran q pt tr ops lags l)
  have hans : (s.ran q pt tr ops lags l).env.answerAt 0 = s.env.answerAt ops := ran_answerAt _ _ _ _ _
  refine ⟨w0, w1, ?_⟩
  have henv := ran_account s.env tr ops lags l f (s.env.byte0 ops) (s.env.byte1 ops) (s.env.dur ops)
  rw [transact_oracle (s := s.ran q pt tr ops lags l) (hans ▸ hd) hk, hans, ← hport]
  simp only [State.ran, ← henv]
  rfl

end Steps

/-! ## Entries -/

section Running
variable {cfg : Config} {p : List Micro} {a b : Word} {k : BitVec 4} {s : State} (h : Running cfg p a b k s)
include h

/-- A skip goes on at the target the flag selects (R131). -/
theorem Running.skip {x y u : BitVec 4} (hm : p[k.toNat]? = some (.skip x y))
    (hu : (if cfg.biasNormallyOff then x else y) = u) :
    Machine.microStep s = .next (Machine.skip x y s) ∧ Running cfg p a b u (Machine.skip x y s) :=
  ⟨h.microStep hm, h.busy, h.tReq, h.cfg_eq, h.program, h.a_eq, h.b_eq, by rw [← hu, ← h.cfg_eq]; rfl⟩

/-- A delay ends its micro-step (R96, R101). -/
theorem Running.delay {d : Nat} (hm : p[k.toNat]? = some (.dly d)) :
    Machine.microStep s = .next (Machine.delay d s) ∧ Running cfg p a b (k + 1#4) (Machine.delay d s) :=
  ⟨h.microStep hm, h.busy, h.tReq, h.cfg_eq, h.program, h.a_eq, h.b_eq, congrArg (· + 1#4) h.upc⟩

end Running

section Running
variable {s : State} {p : List Micro} {a b : Word} {k : BitVec 4} {q : Seq} {pt : TPort} {tr : TransportState}
  {ops lags : Nat} {l : List (Option EventKind × Nat)}
  (h : Running s.cfg p a b k (s.ran q pt tr ops lags l))
include h

/-- The skip on the time line. -/
theorem Running.skip_ran {x y u : BitVec 4} (hm : p[k.toNat]? = some (.skip x y))
    (hu : (if s.cfg.biasNormallyOff then x else y) = u) (n : Nat) :
    Machine.runCommand (n + 1) (s.ran q pt tr ops lags l)
        = Machine.runCommand n (s.ran (q.jump s.cfg.biasNormallyOff u) pt tr ops (lags + 1)
            (l ++ [(none, s.env.lagAt lags)]))
      ∧ Running s.cfg p a b u (s.ran (q.jump s.cfg.biasNormallyOff u) pt tr ops (lags + 1)
          (l ++ [(none, s.env.lagAt lags)])) := by
  obtain ⟨hstep, hrun⟩ := h.skip hm hu
  rw [Machine.skip_ran, hu] at hstep hrun
  exact ⟨h.runCommand hstep n, hrun⟩

/-- The delay on the time line (R101). -/
theorem Running.delay_ran {d : Nat} (hm : p[k.toNat]? = some (.dly d)) (htmr : q.tmr = 0) (n : Nat) :
    Machine.runCommand (n + 1) (s.ran q pt tr ops lags l)
        = Machine.runCommand n (s.ran (q.finish s.cfg.biasNormallyOff) pt tr ops lags
            (l ++ [(some (.delayElapsed d), d)]))
      ∧ Running s.cfg p a b (k + 1#4) (s.ran (q.finish s.cfg.biasNormallyOff) pt tr ops lags
            (l ++ [(some (.delayElapsed d), d)])) := by
  obtain ⟨hstep, hrun⟩ := h.delay hm
  rw [Machine.delay_ran s q pt tr ops lags l d htmr] at hstep hrun
  exact ⟨h.runCommand hstep n, hrun⟩

/-- RES is formed (R20). -/
theorem Running.setRes_ran {src : ResSrc} {w : Word} (hm : p[k.toNat]? = some (.setRes src))
    (hw : src.eval q = .ok w) (n : Nat) :
    Machine.runCommand (n + 1) (s.ran q pt tr ops lags l)
        = Machine.runCommand n (s.ran ((q.loadRes w).finish s.cfg.biasNormallyOff) pt tr ops (lags + 1)
            (l ++ [(none, s.env.lagAt lags)]))
      ∧ Running s.cfg p a b (k + 1#4) (s.ran ((q.loadRes w).finish s.cfg.biasNormallyOff) pt tr ops (lags + 1)
            (l ++ [(none, s.env.lagAt lags)])) := by
  obtain ⟨hstep, hrun⟩ := h.setRes hm hw
  rw [setResult_ran] at hstep hrun
  exact ⟨h.runCommand hstep n, hrun⟩

/-- The response ends the run (R22). -/
theorem Running.respond_ran {src : RspSrc} {st : RspStatus} {d : Word} (hm : p[k.toNat]? = some (.respond src st))
    (hd : src.eval q = .ok d) (n : Nat) :
    Machine.runCommand (n + 1) (s.ran q pt tr ops lags l)
      = .next (s.ran (q.respond d st) pt tr ops (lags + 1)
          (l ++ [(some (.response d st), s.env.lagAt lags)])) := by
  rw [h.respond hm hd, Machine.respond_ran]

variable (hk : s.env.kind = .oracle) {N : Nat} (hret : s.env.returns N)
include hk hret

/-- An operation goes by (R52, R96). -/
theorem Running.op_ran {m : Micro} {f : Frame} (hops : ops < N) (hm : p[k.toNat]? = some m)
    (hf : m.frame s.cfg q = some f) (n : Nat) :
    ∃ w0 w1,
      Machine.runCommand (n + 1) (s.ran q pt tr ops lags l)
          = Machine.runCommand n (s.ran
              ((takeBytes f (s.env.byte0 ops) (s.env.byte1 ops) q).finish s.cfg.biasNormallyOff)
              (f.portAfter w0 w1) (f.transportAfter tr) (ops + 1) lags
              (l ++ [(some (frameEvent f (s.env.byte0 ops) (s.env.byte1 ops)), s.env.dur ops)]))
        ∧ Running s.cfg p a b (k + 1#4)
            (s.ran ((takeBytes f (s.env.byte0 ops) (s.env.byte1 ops) q).finish s.cfg.biasNormallyOff)
              (f.portAfter w0 w1) (f.transportAfter tr) (ops + 1) lags
              (l ++ [(some (frameEvent f (s.env.byte0 ops) (s.env.byte1 ops)), s.env.dur ops)])) := by
  have hd := hret.duration hops
  obtain ⟨w0, w1, hserved⟩ := transact_ran s q pt tr ops lags l f hk hd
  have hstep := ((h.microStep hm).trans (runMicro_of_frame hf)).trans hserved
  refine ⟨w0, w1, h.runCommand hstep n, ?_, by cases f <;> rfl, rfl, ?_, ?_, ?_, ?_⟩
  · exact (takeBytes_busy f _ _ q).trans h.busy
  · exact ((takeBytes_sameEntry f _ _ q).program _).trans h.program
  · exact (takeBytes_a f _ _ q).trans h.a_eq
  · exact (takeBytes_b f _ _ q).trans h.b_eq
  · exact congrArg (· + 1#4) ((takeBytes_upc f _ _ q).trans h.upc)

end Running

end Sys2Proof.Machine
end
section
/-! PROOF. The ten commands and the illegal words in front of the oracle (spec/42_configuration.md R106 to R112,
spec/43_fault.md R116, R117, spec/44_conversion.md R121 to R134, spec/60_exceptions.md R139). -/

namespace Sys2Proof.Machine

/-! ## A read-modify-write of a register -/

theorem eval_setT {cfg : Config} {q : Seq} (h : q.tLive = true) (m : Byte) :
    (WrData.setT m).eval cfg q = .ok (cfgSet q.t m) := by
  simp [WrData.eval, readT, h, Except.map]

theorem eval_clrT {cfg : Config} {q : Seq} (h : q.tLive = true) (m : Byte) :
    (WrData.clrT m).eval cfg q = .ok (cfgClr q.t m) := by
  simp [WrData.eval, readT, h, Except.map]

theorem eval_wireT {cfg : Config} {q : Seq} (h : q.tLive = true) (mode : WireMode) :
    (WrData.wireT mode).eval cfg q = .ok (wireBit cfg mode q.t) := by
  simp [WrData.eval, readT, h, Except.map]

/-- The two events of a read-modify-write whose first operation is the `k`-th from now: the write sends what `g` makes
of the byte read. -/
def rmwLine (e : Env) (addr : Byte) (g : Byte → Byte) (k : Nat) : List (Option EventKind × Nat) :=
  [(some (.writeThenRead (addrRd addr) 1 [e.byte0 k]), e.dur k),
    (some (.write (addrWr addr) (g (e.byte0 k))), e.dur (k + 1))]

section Running
variable {s : State} {p : List Micro} {a b : Word} {k : BitVec 4} {q : Seq} {pt : TPort} {tr : TransportState}
  {ops lags : Nat} {l : List (Option EventKind × Nat)}
  (h : Running s.cfg p a b k (s.ran q pt tr ops lags l)) (hk : s.env.kind = .oracle) {N : Nat}
  (hret : s.env.returns N)
include h hk hret

/-- A read and the write that follows it (R107 to R109, R117, R121). -/
theorem Running.rmw_ran {addr : Byte} {v : WrData} {g : Byte → Byte} (hops : ops + 1 < N)
    (hrd : p[k.toNat]? = some (.rd8 addr)) (hwr : p[(k + 1#4).toNat]? = some (.wr8 addr v))
    (hv : ∀ q', q'.tLive = true → v.eval s.cfg q' = .ok (g q'.t)) (n : Nat) :
    Machine.runCommand (n + 2) (s.ran q pt tr ops lags l)
        = Machine.runCommand n (s.ran
            (((q.loadT (s.env.byte0 ops)).finish s.cfg.biasNormallyOff).finish s.cfg.biasNormallyOff)
            ⟨false, 1#2, addrWr addr, g (s.env.byte0 ops), 0#2⟩ tr (ops + 2) lags
            (l ++ rmwLine s.env addr g ops))
      ∧ Running s.cfg p a b (k + 1#4 + 1#4)
          (s.ran (((q.loadT (s.env.byte0 ops)).finish s.cfg.biasNormallyOff).finish s.cfg.biasNormallyOff)
            ⟨false, 1#2, addrWr addr, g (s.env.byte0 ops), 0#2⟩ tr (ops + 2) lags
            (l ++ rmwLine s.env addr g ops)) := by
  obtain ⟨w0, w1, hgo0, hrun0⟩ := h.op_ran hk hret (f := .read1 addr) (by omega) hrd rfl (n + 1)
  have heval := hv ((q.loadT (s.env.byte0 ops)).finish s.cfg.biasNormallyOff) rfl
  obtain ⟨u0, u1, hgo1, hrun1⟩ := hrun0.op_ran hk hret hops hwr (frame_wr8 heval addr) n
  rw [List.append_assoc] at hgo1 hrun1
  exact ⟨hgo0.trans hgo1, hrun1⟩

/-- A write whose byte does not depend on T (R110, R106). -/
theorem Running.write_ran {addr byte : Byte} {v : WrData} (hops : ops < N) (hm : p[k.toNat]? = some (.wr8 addr v))
    (hv : v.eval s.cfg q = .ok byte) (n : Nat) :
    Machine.runCommand (n + 1) (s.ran q pt tr ops lags l)
        = Machine.runCommand n (s.ran (q.finish s.cfg.biasNormallyOff) ⟨false, 1#2, addrWr addr, byte, 0#2⟩ tr
            (ops + 1) lags (l ++ [(some (.write (addrWr addr) byte), s.env.dur ops)]))
      ∧ Running s.cfg p a b (k + 1#4)
          (s.ran (q.finish s.cfg.biasNormallyOff) ⟨false, 1#2, addrWr addr, byte, 0#2⟩ tr
            (ops + 1) lags (l ++ [(some (.write (addrWr addr) byte), s.env.dur ops)])) := by
  obtain ⟨w0, w1, hgo, hrun⟩ := h.op_ran hk hret hops hm (frame_wr8 hv addr) n
  exact ⟨hgo, hrun⟩

end Running

section Command
variable {s : State} (h : ReadyOracle s)
include h

/-- A command that is presented to a ready block runs from the first entry of its program (R26). -/
theorem command_eq_ran (op : Byte) (a b : Word) :
    command op a b s
        = runCommand commandFuel (s.ran (s.seq.accept op a b) s.port s.env.transport 0 0 [])
      ∧ Running s.cfg (microProgram s.cfg (decodeFields op a b)) a b 0#4
          (s.ran (s.seq.accept op a b) s.port s.env.transport 0 0 []) := by
  obtain ⟨hbusy, hreq, -, -⟩ := h
  rw [command_ready hbusy, ← accept_eq_ran]
  exact ⟨rfl, running_accept hreq op a b⟩

/-- The commands that read, modify and write the configuration register (R107 to R109, R117). -/
theorem command_rmw {op : Byte} {a b : Word} {v : WrData} {g : Byte → Byte} (hret : s.env.returns 2)
    (hprog : microProgram s.cfg (decodeFields op a b)
      = [.rd8 s.cfg.aConfig, .wr8 s.cfg.aConfig v, .respond .zero .ok])
    (hv : ∀ q, q.tLive = true → v.eval s.cfg q = .ok (g q.t)) :
    command op a b s = .next { s with
      seq := { s.seq.answered op a b 0x0000#16 .ok with t := s.env.byte0 0, tLive := true }
      port := { tReq := false, tKind := 1#2, tW0 := addrWr s.cfg.aConfig, tW1 := g (s.env.byte0 0), tRlen := 0#2 }
      env := s.env.passed 2 1
        (rmwLine s.env s.cfg.aConfig g 0 ++ [(some (.response 0x0000#16 .ok), s.env.lagAt 0)]) } := by
  obtain ⟨hgo0, hrun0⟩ := command_eq_ran h op a b
  obtain ⟨-, -, -, hk⟩ := h
  rw [hprog] at hrun0
  obtain ⟨hgo1, hrun1⟩ := hrun0.rmw_ran hk hret (by omega) rfl rfl hv 14
  rw [hgo0, commandFuel, hgo1, hrun1.respond_ran rfl rfl 13]
  rfl

/-- The commands that respond with a pair of registers (R111, R112). -/
theorem command_pair {op : Byte} {a b : Word} {addr : Byte} (hret : s.env.returns 1)
    (hprog : microProgram s.cfg (decodeFields op a b) = [.rd16 addr, .setRes .rWord, .respond .res .ok]) :
    ∃ w1, command op a b s = .next { s with
      seq := { s.seq.answered op a b (wordJoin (s.env.byte0 0) (s.env.byte1 0)) .ok with
        r := wordJoin (s.env.byte0 0) (s.env.byte1 0), rLive := true
        res := wordJoin (s.env.byte0 0) (s.env.byte1 0), resLive := true }
      port := { tReq := false, tKind := 2#2, tW0 := addrRd addr, tW1 := w1, tRlen := 2#2 }
      env := s.env.passed 1 2
        [(some (.writeThenRead (addrRd addr) 2 [s.env.byte0 0, s.env.byte1 0]), s.env.dur 0),
          (none, s.env.lagAt 0),
          (some (.response (wordJoin (s.env.byte0 0) (s.env.byte1 0)) .ok), s.env.lagAt 1)] } := by
  obtain ⟨hgo0, hrun0⟩ := command_eq_ran h op a b
  obtain ⟨-, -, -, hk⟩ := h
  rw [hprog] at hrun0
  obtain ⟨w0, w1, hgo1, hrun1⟩ := hrun0.op_ran hk hret (by omega) rfl rfl 15
  obtain ⟨hgo2, hrun2⟩ := hrun1.setRes_ran rfl rfl 14
  refine ⟨w1, ?_⟩
  rw [hgo0, commandFuel, hgo1, hgo2, hrun2.respond_ran rfl rfl 13]
  rfl

end Command

/-- Settles O32: the read-modify-write of WIRE_BIT. -/
theorem setWiresCompletes : Obligations.SetWiresCompletes := by
  intro mode x y s hready hret
  refine ⟨wireBit s.cfg mode (s.env.byte0 0), by cases mode <;> rfl, ?_⟩
  have hprog := congrArg (microProgram s.cfg) (decodeFields_setWires mode x y)
  exact command_rmw hready hret hprog fun q hq => eval_wireT hq mode

/-- ENABLE_BIAS and AUTO_CONVERT set or clear one mask (R108, R109). -/
theorem eval_boolBitMod (on : Bool) (m : Byte) {cfg : Config} {q : Seq} (h : q.tLive = true) :
    (if on then WrData.setT m else .clrT m).eval cfg q = .ok (boolBitMod on m q.t) := by
  cases on
  · exact eval_clrT h m
  · exact eval_setT h m

/-- Settles O33: the read-modify-write of the bias mask. -/
theorem enableBiasCompletes : Obligations.EnableBiasCompletes := by
  intro on x y s hready hret
  refine ⟨boolBitMod on s.cfg.mBias (s.env.byte0 0), rfl, ?_⟩
  have hprog := congrArg (microProgram s.cfg) (decodeFields_enableBias on x y)
  exact command_rmw hready hret hprog fun q hq => eval_boolBitMod on _ hq

/-- Settles O34: the read-modify-write of the mode mask. -/
theorem autoConvertCompletes : Obligations.AutoConvertCompletes := by
  intro on x y s hready hret
  refine ⟨boolBitMod on s.cfg.mAuto (s.env.byte0 0), rfl, ?_⟩
  have hprog := congrArg (microProgram s.cfg) (decodeFields_autoConvert on x y)
  exact command_rmw hready hret hprog fun q hq => eval_boolBitMod on _ hq

/-- Settles O38: the read-modify-write of the clear mask and the fault-clear bit. -/
theorem clearFaultCompletes : Obligations.ClearFaultCompletes := by
  intro x y s hready hret
  exact ⟨clearFaultByte s.cfg (s.env.byte0 0), rfl, command_rmw hready hret rfl fun q hq => eval_clearFaultT hq⟩

/-- Settles O36: both commands are the read of a pair. -/
theorem getThresholdsComplete : Obligations.GetThresholdsComplete :=
  fun _ _ _ hready hret => ⟨_, rfl, command_pair hready hret rfl, command_pair hready hret rfl⟩

theorem setWidth_eq_append (c : Byte) : c.setWidth 16 = 0x00#8 ++ c := by
  revert c; decide

/-- Settles O37: one read, and the byte with zeros above it. -/
theorem readFaultCompletes : Obligations.ReadFaultCompletes := by
  intro x y s hready hret
  have hexec : exec (.readFault x y) s = command 0x02#8 x y s := rfl
  obtain ⟨hgo0, hrun0⟩ := command_eq_ran hready 0x02#8 x y
  obtain ⟨-, -, -, hk⟩ := hready
  obtain ⟨w0, w1, hgo1, hrun1⟩ := hrun0.op_ran hk hret (m := .rd8 s.cfg.aFault) (by omega) rfl rfl 15
  have heval : ResSrc.tExtended.eval ((takeBytes (.read1 s.cfg.aFault) (s.env.byte0 0) (s.env.byte1 0)
      (s.seq.accept 0x02#8 x y)).finish s.cfg.biasNormallyOff) = .ok (0x00#8 ++ s.env.byte0 0) :=
    congrArg Except.ok (setWidth_eq_append _)
  obtain ⟨hgo2, hrun2⟩ := hrun1.setRes_ran (src := .tExtended) rfl heval 14
  refine ⟨w1, ?_⟩
  rw [hexec, hgo0, commandFuel, hgo1, hgo2, hrun2.respond_ran (src := .res) (st := .ok) rfl rfl 13]
  rfl

/-- Settles O35: four writes, the operands' bytes in their order. -/
theorem setThresholdsCompletes : Obligations.SetThresholdsCompletes := by
  intro lower upper s hready hret
  have hexec : exec (.setThresholds lower upper) s = command 0x07#8 lower upper s := rfl
  obtain ⟨hgo0, hrun0⟩ := command_eq_ran hready 0x07#8 lower upper
  obtain ⟨-, -, -, hk⟩ := hready
  obtain ⟨hgo1, hrun1⟩ := hrun0.write_ran hk hret (v := .aLo) (addr := s.cfg.aLthrLsb) (by omega) rfl rfl 15
  obtain ⟨hgo2, hrun2⟩ := hrun1.write_ran hk hret (v := .aHi) (addr := s.cfg.aLthrMsb) (by omega) rfl rfl 14
  obtain ⟨hgo3, hrun3⟩ := hrun2.write_ran hk hret (v := .bLo) (addr := s.cfg.aHthrLsb) (by omega) rfl rfl 13
  obtain ⟨hgo4, hrun4⟩ := hrun3.write_ran hk hret (v := .bHi) (addr := s.cfg.aHthrMsb) (by omega) rfl rfl 12
  rw [hexec, hgo0, commandFuel, hgo1, hgo2, hgo3, hgo4,
    hrun4.respond_ran (src := .zero) (st := .ok) rfl rfl 11]
  rfl

/-- Settles O31: INIT, three read-modify-writes, the four threshold bytes, and CLEAR_FAULT's read-modify-write. -/
theorem beginCompletes : Obligations.BeginCompletes := by
  intro mode x y s hready hret
  have hwire : (if mode = .three then s.env.byte0 1 ||| s.cfg.m3Wire else s.env.byte0 1 &&& ~~~s.cfg.m3Wire)
      = wireBit s.cfg mode (s.env.byte0 1) := by
    cases mode <;> rfl
  have hexec : exec (.beginCmd mode x y) s = command 0x00#8 (wireField x (wireCode mode)) y s := rfl
  obtain ⟨hgo0, hrun0⟩ := command_eq_ran hready 0x00#8 (wireField x (wireCode mode)) y
  obtain ⟨-, -, -, hk⟩ := hready
  rw [decodeFields_begin, microProgram] at hrun0
  obtain ⟨w0, w1, hgo1, hrun1⟩ := hrun0.op_ran hk hret (m := .init) (by omega) rfl rfl 15
  obtain ⟨hgo2, hrun2⟩ := hrun1.rmw_ran hk hret (by omega) rfl rfl (fun q hq => eval_wireT hq mode) 13
  obtain ⟨hgo3, hrun3⟩ := hrun2.rmw_ran hk hret (g := (cfgClr · s.cfg.mBias)) (by omega) rfl rfl
    (fun q hq => eval_clrT hq _) 11
  obtain ⟨hgo4, hrun4⟩ := hrun3.rmw_ran hk hret (g := (cfgClr · s.cfg.mAuto)) (by omega) rfl rfl
    (fun q hq => eval_clrT hq _) 9
  obtain ⟨hgo5, hrun5⟩ := hrun4.write_ran hk hret (byte := 0x00#8) (by omega) rfl rfl 8
  obtain ⟨hgo6, hrun6⟩ := hrun5.write_ran hk hret (byte := 0x00#8) (by omega) rfl rfl 7
  obtain ⟨hgo7, hrun7⟩ := hrun6.write_ran hk hret (byte := 0xFF#8) (by omega) rfl rfl 6
  obtain ⟨hgo8, hrun8⟩ := hrun7.write_ran hk hret (byte := 0xFF#8) (by omega) rfl rfl 5
  obtain ⟨hgo9, hrun9⟩ := hrun8.rmw_ran hk hret (by omega) rfl rfl (fun q hq => eval_clearFaultT hq) 3
  rw [hwire, hexec, hgo0, commandFuel, hgo1, hgo2, hgo3, hgo4, hgo5, hgo6, hgo7, hgo8, hgo9,
    hrun9.respond_ran rfl rfl 2]
  rfl

end Sys2Proof.Machine
end
section
/-! PROOF. READ_RTD and the illegal words in front of the oracle, and that the oracle's times show in no register and
no event's content (spec/44_conversion.md R121 to R134, spec/60_exceptions.md R139, spec/20_memory.md R52). -/

namespace Sys2Proof.Machine

/-- READ_RTD with bias switching: every entry but the skips' other targets (R122 to R129). -/
theorem readRtd_biasSwitched {s : State} (hready : ReadyOracle s) (hbno : s.cfg.biasNormallyOff = true)
    (hret : s.env.returns 7) (x y : Word) :
    exec (.readRtd x y) s = .next { s with
      seq := { s.seq.answered 0x01#8 x y (rtdCode (wordJoin (s.env.byte0 4) (s.env.byte1 4))) .ok with
        t := s.env.byte0 5, tLive := true, r := wordJoin (s.env.byte0 4) (s.env.byte1 4), rLive := true
        res := rtdCode (wordJoin (s.env.byte0 4) (s.env.byte1 4)), resLive := true }
      port := ⟨false, 1#2, addrWr s.cfg.aConfig, cfgClr (s.env.byte0 5) s.cfg.mBias, 0#2⟩
      env := s.env.passed 7 4
        ([(none, s.env.lagAt 0)] ++ rmwLine s.env s.cfg.aConfig (cfgSet · s.cfg.mBias) 0
          ++ [(some (.delayElapsed s.cfg.settleTicks), s.cfg.settleTicks)]
          ++ rmwLine s.env s.cfg.aConfig (cfgSet · s.cfg.m1Shot) 2
          ++ [(some (.delayElapsed s.cfg.convTicks), s.cfg.convTicks),
            (some (.writeThenRead (addrRd s.cfg.aRtdMsb) 2 [s.env.byte0 4, s.env.byte1 4]), s.env.dur 4),
            (none, s.env.lagAt 1), (none, s.env.lagAt 2)]
          ++ rmwLine s.env s.cfg.aConfig (cfgClr · s.cfg.mBias) 5
          ++ [(some (.response (rtdCode (wordJoin (s.env.byte0 4) (s.env.byte1 4))) .ok), s.env.lagAt 3)]) } := by
  have hexec : exec (.readRtd x y) s = command 0x01#8 x y s := rfl
  obtain ⟨hgo0, hrun0⟩ := command_eq_ran hready 0x01#8 x y
  obtain ⟨-, -, htmr, hk⟩ := hready
  obtain ⟨hgo1, hrun1⟩ := hrun0.skip_ran rfl (if_pos hbno) 15
  obtain ⟨hgo2, hrun2⟩ := hrun1.rmw_ran hk hret (g := (cfgSet · s.cfg.mBias)) (by omega) rfl rfl
    (fun q hq => eval_setT hq _) 13
  obtain ⟨hgo3, hrun3⟩ := hrun2.delay_ran rfl htmr 12
  obtain ⟨hgo4, hrun4⟩ := hrun3.rmw_ran hk hret (g := (cfgSet · s.cfg.m1Shot)) (by omega) rfl rfl
    (fun q hq => eval_setT hq _) 10
  obtain ⟨hgo5, hrun5⟩ := hrun4.delay_ran rfl htmr 9
  obtain ⟨w0, w1, hgo6, hrun6⟩ := hrun5.op_ran hk hret (by omega) rfl rfl 8
  obtain ⟨hgo7, hrun7⟩ := hrun6.setRes_ran rfl rfl 7
  obtain ⟨hgo8, hrun8⟩ := hrun7.skip_ran rfl (if_pos hbno) 6
  obtain ⟨hgo9, hrun9⟩ := hrun8.rmw_ran hk hret (g := (cfgClr · s.cfg.mBias)) (by omega) rfl rfl
    (fun q hq => eval_clrT hq _) 4
  rw [hexec, hgo0, commandFuel, hgo1, hgo2, hgo3, hgo4, hgo5, hgo6, hgo7, hgo8, hgo9,
    hrun9.respond_ran rfl rfl 3]
  rfl

/-- READ_RTD without bias switching: the skips pass the entries that switch it (R131). -/
theorem readRtd_biasKept {s : State} (hready : ReadyOracle s) (hbno : s.cfg.biasNormallyOff = false)
    (hret : s.env.returns 3) (x y : Word) :
    ∃ w1, exec (.readRtd x y) s = .next { s with
      seq := { s.seq.answered 0x01#8 x y (rtdCode (wordJoin (s.env.byte0 2) (s.env.byte1 2))) .ok with
        t := s.env.byte0 0, tLive := true, r := wordJoin (s.env.byte0 2) (s.env.byte1 2), rLive := true
        res := rtdCode (wordJoin (s.env.byte0 2) (s.env.byte1 2)), resLive := true }
      port := ⟨false, 2#2, addrRd s.cfg.aRtdMsb, w1, 2#2⟩
      env := s.env.passed 3 4
        ([(none, s.env.lagAt 0)] ++ rmwLine s.env s.cfg.aConfig (cfgSet · s.cfg.m1Shot) 0
          ++ [(some (.delayElapsed s.cfg.convTicks), s.cfg.convTicks),
            (some (.writeThenRead (addrRd s.cfg.aRtdMsb) 2 [s.env.byte0 2, s.env.byte1 2]), s.env.dur 2),
            (none, s.env.lagAt 1), (none, s.env.lagAt 2),
            (some (.response (rtdCode (wordJoin (s.env.byte0 2) (s.env.byte1 2))) .ok), s.env.lagAt 3)]) } := by
  have hexec : exec (.readRtd x y) s = command 0x01#8 x y s := rfl
  obtain ⟨hgo0, hrun0⟩ := command_eq_ran hready 0x01#8 x y
  obtain ⟨-, -, htmr, hk⟩ := hready
  have hoff : ¬ s.cfg.biasNormallyOff = true := by simp [hbno]
  obtain ⟨hgo1, hrun1⟩ := hrun0.skip_ran rfl (if_neg hoff) 15
  obtain ⟨hgo2, hrun2⟩ := hrun1.rmw_ran hk hret (g := (cfgSet · s.cfg.m1Shot)) (by omega) rfl rfl
    (fun q hq => eval_setT hq _) 13
  obtain ⟨hgo3, hrun3⟩ := hrun2.delay_ran rfl htmr 12
  obtain ⟨w0, w1, hgo4, hrun4⟩ := hrun3.op_ran hk hret (by omega) rfl rfl 11
  obtain ⟨hgo5, hrun5⟩ := hrun4.setRes_ran rfl rfl 10
  obtain ⟨hgo6, hrun6⟩ := hrun5.skip_ran rfl (if_neg hoff) 9
  refine ⟨w1, ?_⟩
  rw [hexec, hgo0, commandFuel, hgo1, hgo2, hgo3, hgo4, hgo5, hgo6, hrun6.respond_ran rfl rfl 8]
  rfl

/-- Settles O39: the program with the flag, and without it. -/
theorem readRtdCompletes : Obligations.ReadRtdCompletes := by
  intro x y s hready
  refine ⟨fun hbno hret => ⟨_, rfl, readRtd_biasSwitched hready hbno hret x y⟩, fun hbno hret => ?_⟩
  obtain ⟨w1, hexec⟩ := readRtd_biasKept hready hbno hret x y
  exact ⟨_, w1, rfl, hexec⟩

/-! ## Illegal words -/

/-- A command word's fields select the program of its own instruction (R65, R71). -/
theorem decodeFields_of_commandFields {i : Instr} {op : Byte} {a b : Word}
    (h : commandFields i = some (op, a, b)) : decodeFields op a b = i := by
  cases hw : encode i with
  | tport kind w0 w1 rlen => simp [commandFields, hw] at h
  | codec sel w => simp [commandFields, hw] at h
  | cmd w =>
    have hwf : i.wellFormed = true := by
      cases i with
      | rd8 | rd16 | wr8 => cases hw
      | _ => rfl
    have hdec := encodeThenDecode i hwf
    simp only [commandFields, hw, Option.some.injEq, Prod.mk.injEq] at h
    obtain ⟨rfl, rfl, rfl⟩ := h
    rw [hw] at hdec
    exact Except.ok.inj hdec

theorem microProgram_of_isIllegal {i : Instr} (h : isIllegal i = true) (cfg : Config) :
    microProgram cfg i = progIllegal := by
  cases i with
  | illegalBeginMode3 | illegalSetWiresMode3 | illegalOp0A0B | illegalOp0C0F | illegalOp101F | illegalOp203F
  | illegalOp407F | illegalOp80FF => rfl
  | _ => cases h

/-- Settles O40: acceptance and one response, in which the transport has no part. -/
theorem illegalWordIsAnswered : Obligations.IllegalWordIsAnswered := by
  intro i op a b s hi hfields hbusy hreq
  have hprog : microProgram s.cfg (decodeFields op a b) = progIllegal := by
    rw [decodeFields_of_commandFields hfields, microProgram_of_isIllegal hi]
  have hrun := running_accept hreq op a b
  rw [hprog, accept_eq_ran] at hrun
  rw [exec_of_commandFields hfields, command_ready hbusy, accept_eq_ran, commandFuel,
    hrun.respond_ran (src := .zero) (st := .illegal) rfl rfl 15]
  rfl

/-! ## What the durations do not show in -/

theorem Env.returns.mono {e : Env} {m n : Nat} (h : e.returns n) (hle : m ≤ n) : e.returns m :=
  fun k hk => h k (Nat.lt_of_lt_of_le hk hle)

/-- Two states ready for a command in front of oracles that differ in their times only. -/
structure DifferInTimes (s s' : State) : Prop where
  ready : ReadyOracle s
  ready' : ReadyOracle s'
  returns : s.env.returns 13
  returns' : s'.env.returns 13
  cfg : s.cfg = s'.cfg
  seq : s.seq = s'.seq
  byte0 : ∀ k < 13, s.env.byte0 k = s'.env.byte0 k
  byte1 : ∀ k < 13, s.env.byte1 k = s'.env.byte1 k

/-- `i` completes from both states with the same registers, and with events that differ in their times only. -/
def RunsAlike (i : Instr) (s s' : State) : Prop :=
  ∃ t t' l l', exec i s = .next t ∧ exec i s' = .next t' ∧ t.seq = t'.seq
    ∧ t.env.history = s.env.history ++ l ∧ t'.env.history = s'.env.history ++ l'
    ∧ l.map (fun e => e.what) = l'.map (fun e => e.what)

/-- Two runs that end with the same registers, over time lines that record the same. -/
theorem RunsAlike.of_timelines {i : Instr} {s s' t t' : State} {l l' : List (Option EventKind × Nat)}
    (h : exec i s = .next t) (h' : exec i s' = .next t') (hseq : t.seq = t'.seq)
    (hl : t.env.history = s.env.history ++ timeline s.env.now l)
    (hl' : t'.env.history = s'.env.history ++ timeline s'.env.now l')
    (hkinds : l.filterMap Prod.fst = l'.filterMap Prod.fst) : RunsAlike i s s' :=
  ⟨t, t', _, _, h, h', hseq, hl, hl', by rw [timeline_what, timeline_what, hkinds]⟩

section DifferInTimes
variable {s s' : State} (h : DifferInTimes s s')
include h

theorem DifferInTimes.returns_both {n : Nat} (hn : n ≤ 13) : s.env.returns n ∧ s'.env.returns n :=
  ⟨h.returns.mono hn, h.returns'.mono hn⟩

/-- The commands of one read-modify-write. -/
theorem DifferInTimes.rmw {i : Instr} {op : Byte} {a b : Word} {v : WrData} {g : Byte → Byte}
    (hexec : ∀ s, exec i s = command op a b s)
    (hprog : microProgram s.cfg (decodeFields op a b)
      = [.rd8 s.cfg.aConfig, .wr8 s.cfg.aConfig v, .respond .zero .ok])
    (hv : ∀ q, q.tLive = true → v.eval s.cfg q = .ok (g q.t)) : RunsAlike i s s' := by
  obtain ⟨hret, hret'⟩ := h.returns_both (n := 2) (by omega)
  have hrun := (hexec s).trans (command_rmw h.ready hret hprog hv)
  rw [h.cfg] at hprog hv
  refine .of_timelines hrun ((hexec s').trans (command_rmw h.ready' hret' hprog hv)) ?_ rfl rfl ?_
  · simp [h.seq, h.byte0]
  · simp [rmwLine, h.cfg, h.byte0]

theorem DifferInTimes.setter {i : Instr} {m : Byte} {want : Bool} (hset : SetsField s.cfg i m want) :
    RunsAlike i s s' := by
  obtain ⟨op, a, b, v, hexec, hprog, hv⟩ := hset.program
  exact h.rmw hexec hprog hv

/-- The commands that respond with a pair of registers. -/
theorem DifferInTimes.pair {i : Instr} {op : Byte} {a b : Word} {addr : Byte}
    (hexec : ∀ s, exec i s = command op a b s)
    (hprog : microProgram s.cfg (decodeFields op a b) = [.rd16 addr, .setRes .rWord, .respond .res .ok]) :
    RunsAlike i s s' := by
  obtain ⟨hret, hret'⟩ := h.returns_both (n := 1) (by omega)
  obtain ⟨_, hrun⟩ := command_pair h.ready hret hprog
  rw [h.cfg] at hprog
  obtain ⟨_, hrun'⟩ := command_pair h.ready' hret' hprog
  refine .of_timelines ((hexec s).trans hrun) ((hexec s').trans hrun') ?_ rfl rfl ?_
  · simp [h.seq, h.byte0, h.byte1]
  · simp [h.byte0, h.byte1]

theorem DifferInTimes.readRtd (x y : Word) : RunsAlike (.readRtd x y) s s' := by
  cases hbno : s.cfg.biasNormallyOff with
  | true =>
    obtain ⟨hret, hret'⟩ := h.returns_both (n := 7) (by omega)
    refine .of_timelines (readRtd_biasSwitched h.ready hbno hret x y)
      (readRtd_biasSwitched h.ready' (h.cfg ▸ hbno) hret' x y) ?_ rfl rfl ?_
    · simp [h.seq, h.byte0, h.byte1]
    · simp [rmwLine, h.cfg, h.byte0, h.byte1]
  | false =>
    obtain ⟨hret, hret'⟩ := h.returns_both (n := 3) (by omega)
    obtain ⟨_, hrun⟩ := readRtd_biasKept h.ready hbno hret x y
    obtain ⟨_, hrun'⟩ := readRtd_biasKept h.ready' (h.cfg ▸ hbno) hret' x y
    refine .of_timelines hrun hrun' ?_ rfl rfl ?_
    · simp [h.seq, h.byte0, h.byte1]
    · simp [rmwLine, h.cfg, h.byte0, h.byte1]

theorem DifferInTimes.beginCmd (mode : WireMode) (x : BitVec 14) (y : Word) : RunsAlike (.beginCmd mode x y) s s' := by
  refine .of_timelines (beginCompletes mode x y s h.ready h.returns) (beginCompletes mode x y s' h.ready' h.returns') ?_
    rfl rfl ?_
  · simp [h.seq, h.byte0]
  · simp [h.cfg, h.byte0]

theorem DifferInTimes.setThresholds (lower upper : Word) : RunsAlike (.setThresholds lower upper) s s' := by
  obtain ⟨hret, hret'⟩ := h.returns_both (n := 4) (by omega)
  refine .of_timelines (setThresholdsCompletes lower upper s h.ready hret)
    (setThresholdsCompletes lower upper s' h.ready' hret') ?_ rfl rfl ?_
  · simp [h.seq]
  · simp [h.cfg]

theorem DifferInTimes.readFault (x y : Word) : RunsAlike (.readFault x y) s s' := by
  obtain ⟨hret, hret'⟩ := h.returns_both (n := 1) (by omega)
  obtain ⟨_, hrun⟩ := readFaultCompletes x y s h.ready hret
  obtain ⟨_, hrun'⟩ := readFaultCompletes x y s' h.ready' hret'
  refine .of_timelines hrun hrun' ?_ rfl rfl ?_
  · simp [h.seq, h.byte0]
  · simp [h.cfg, h.byte0]

end DifferInTimes

/-- Settles O57: each command's registers and time line are functions of the bytes but for the durations. -/
theorem transportTimingIsInvisible : Obligations.TransportTimingIsInvisible := by
  intro i s s' hi hs hs' hret hret' hcfg hseq hbytes
  have h : DifferInTimes s s' :=
    ⟨hs, hs', hret, hret', hcfg, hseq, fun k hk => (hbytes k hk).1, fun k hk => (hbytes k hk).2⟩
  cases i with
  | beginCmd mode x y => exact h.beginCmd mode x y
  | readRtd x y => exact h.readRtd x y
  | readFault x y => exact h.readFault x y
  | setThresholds lower upper => exact h.setThresholds lower upper
  | enableBias on x y => exact h.setter (.inl ⟨on, x, y, rfl, rfl, rfl⟩)
  | autoConvert on x y => exact h.setter (.inr (.inl ⟨on, x, y, rfl, rfl, rfl⟩))
  | setWires mode x y => exact h.setter (.inr (.inr ⟨mode, x, y, rfl, rfl, rfl⟩))
  | clearFault x y =>
    exact h.rmw (op := 0x03#8) (a := x) (b := y) (fun _ => rfl) rfl (fun q hq => eval_clearFaultT hq)
  | getLowerThreshold x y => exact h.pair (op := 0x08#8) (a := x) (b := y) (fun _ => rfl) rfl
  | getUpperThreshold x y => exact h.pair (op := 0x09#8) (a := x) (b := y) (fun _ => rfl) rfl
  | _ => cases hi

end Sys2Proof.Machine
end
section
/-! PROOF. A command before BEGIN, and the two delays of READ_RTD, in front of any environment
(spec/70_reset_and_hazards.md R153, spec/20_memory.md R60, spec/44_conversion.md R133, R134). -/

namespace Sys2Proof.Machine

/-! ## The first frame of a command before BEGIN -/

/-- A frame on a transport that has never been initialised stops the command (R60). -/
theorem Running.runCommand_uninitialised {cfg : Config} {p : List Micro} {a b : Word} {k : BitVec 4} {s : State}
    {m : Micro} {f : Frame} (h : Running cfg p a b k s) (hk : s.env.kind = .envRef)
    (ht : s.env.transport = .uninitialised) (hm : p[k.toNat]? = some m) (hf : m.frame cfg s.seq = some f)
    (hinit : f ≠ .init) (n : Nat) : Machine.runCommand (n + 1) s = .fault .transportNotInitialised := by
  have hstep : Machine.microStep s = .fault .transportNotInitialised :=
    ((h.microStep hm).trans (runMicro_of_frame (h.cfg_eq ▸ hf))).trans (transact_uninitialised hk ht hinit)
  simp [Machine.runCommand, h.busy, h.tReq, hstep]

/-- Settles O47: but for READ_RTD, which first skips to one, each command begins with a frame. -/
theorem commandsBeforeBeginFault : Obligations.CommandsBeforeBeginFault := by
  intro i s hi hbegin hbusy hreq hk ht
  obtain ⟨op, a, b, hexec, hdec⟩ := exists_commandFields hi
  have hrun := running_accept hreq op a b
  rw [hdec] at hrun
  rw [hexec, command_ready hbusy]
  cases i with
  | beginCmd mode x y => exact absurd rfl (hbegin mode x y)
  | readRtd x y =>
    obtain ⟨hskip, hgo⟩ := hrun.skip (x := 1#4) (y := 4#4) rfl rfl
    rw [commandFuel, hrun.runCommand hskip]
    refine hgo.runCommand_uninitialised (m := .rd8 s.cfg.aConfig) hk ht ?_ rfl nofun 14
    cases s.cfg.biasNormallyOff <;> rfl
  | setThresholds | readFault | clearFault | enableBias | autoConvert | setWires | getLowerThreshold
  | getUpperThreshold => exact hrun.runCommand_uninitialised hk ht rfl rfl nofun 15
  | _ => cases hi

/-! ## A run that is known to respond -/

/-- A command in execution at entry `k` that, with fuel `n` left, ends in the response `t`. -/
structure Responding (cfg : Config) (p : List Micro) (a b : Word) (k : BitVec 4) (n : Nat) (t s : State) : Prop where
  running : Running cfg p a b k s
  tmr : s.seq.tmr = 0
  run : runCommand n s = .next t
  idle : t.seq.busy = false

section Responding
variable {cfg : Config} {p : List Micro} {a b : Word} {k : BitVec 4} {n : Nat} {s t : State}
  (h : Responding cfg p a b k (n + 1) t s)
include h

/-- One micro-step on: the fuel is one less. -/
theorem Responding.next {u : State} {j : BitVec 4} (hstep : microStep s = .next u) (hrun : Running cfg p a b j u)
    (htmr : u.seq.tmr = 0) : Responding cfg p a b j n t u :=
  ⟨hrun, htmr, (h.running.runCommand hstep n).symm.trans h.run, h.idle⟩

/-- An operation on the way has returned, after a time of its own: a request that is never answered would not have
let the command respond (R138). -/
theorem Responding.op {m : Micro} {f : Frame} (hm : p[k.toNat]? = some m) (hf : m.frame cfg s.seq = some f) :
    ∃ u r0 r1 d, Responding cfg p a b (k + 1#4) n t u
      ∧ u.seq = (takeBytes f r0 r1 s.seq).finish cfg.biasNormallyOff
      ∧ u.env.now = s.env.now + d
      ∧ u.env.history = s.env.history ++ [⟨frameEvent f r0 r1, s.env.now, s.env.now + d⟩] := by
  have hcfg := h.running.cfg_eq
  have hmicro : microStep s = transact f s :=
    (h.running.microStep hm).trans (runMicro_of_frame (hcfg ▸ hf))
  cases hgo : transact f s with
  | fault x =>
    have := h.run
    simp [runCommand, h.running.busy, h.running.tReq, hmicro, hgo] at this
  | refused x =>
    have := h.run
    simp [runCommand, h.running.busy, h.running.tReq, hmicro, hgo] at this
  | next u =>
    have hstep := hmicro.trans hgo
    obtain ⟨-, -, rfl⟩ | ⟨d, sv, hd, hs, rfl⟩ := transact_next hgo
    · have hrun := (h.running.runCommand hstep n).symm.trans h.run
      rw [runCommand_done (s := tick (openHandshake f s)) (.inr (openHandshake_tReq f s))] at hrun
      cases hrun
      exact absurd h.running.busy (by simpa using h.idle)
    · obtain ⟨u, hstep', hrun, henv, hseq⟩ := h.running.transact hm hf hd (hcfg ▸ hs)
      obtain ⟨-, hnow, hhist, -⟩ := serve_next hs
      refine ⟨u, sv.r0, sv.r1, d, h.next hstep' hrun ?_, hcfg ▸ hseq, henv ▸ hnow, henv ▸ hhist⟩
      rw [hseq]
      cases f <;> exact h.tmr

/-- A skip takes some time and records nothing. -/
theorem Responding.skip {x y j : BitVec 4} (hm : p[k.toNat]? = some (.skip x y))
    (hj : (if cfg.biasNormallyOff then x else y) = j) :
    ∃ u, Responding cfg p a b j n t u ∧ u.env.history = s.env.history ∧ s.env.now ≤ u.env.now
      ∧ u.seq.res = s.seq.res ∧ u.seq.resLive = s.seq.resLive := by
  obtain ⟨hstep, hrun⟩ := h.running.skip hm hj
  exact ⟨_, h.next hstep hrun h.tmr, rfl, Nat.le_add_right _ _, rfl, rfl⟩

/-- A delay lasts its ticks (R101). -/
theorem Responding.delay {d : Nat} (hm : p[k.toNat]? = some (.dly d)) :
    ∃ u dly, Responding cfg p a b (k + 1#4) n t u ∧ u.env.history = s.env.history ++ [dly]
      ∧ dly.what = .delayElapsed d ∧ u.env.now = s.env.now + d := by
  obtain ⟨hstep, hrun⟩ := h.running.delay hm
  refine ⟨_, _, h.next hstep hrun rfl, rfl, rfl, ?_⟩
  simp [Machine.delay, endDelay, delayLeft, h.tmr, State.setEnv, Env.record]

/-- RES is formed. -/
theorem Responding.setRes {src : ResSrc} {w : Word} (hm : p[k.toNat]? = some (.setRes src))
    (hw : src.eval s.seq = .ok w) :
    ∃ u, Responding cfg p a b (k + 1#4) n t u ∧ u.env.history = s.env.history ∧ s.env.now ≤ u.env.now
      ∧ u.seq.res = w ∧ u.seq.resLive = true := by
  obtain ⟨hstep, hrun⟩ := h.running.setRes hm hw
  exact ⟨_, h.next hstep hrun h.tmr, rfl, Nat.le_add_right _ _, rfl, rfl⟩

/-- The response is the last event. -/
theorem Responding.respond {src : RspSrc} {st : RspStatus} {d : Word} (hm : p[k.toNat]? = some (.respond src st))
    (hd : src.eval s.seq = .ok d) :
    ∃ rsp, t.env.history = s.env.history ++ [rsp] ∧ rsp.what = .response d st ∧ rsp.began = s.env.now := by
  have hend := (h.running.respond hm hd n).symm.trans h.run
  cases hend
  exact ⟨_, rfl, rfl, rfl⟩

end Responding

/-- A read on the way and the write that follows it, of what `g` makes of the byte read. -/
theorem Responding.rmw {cfg : Config} {p : List Micro} {a b : Word} {k : BitVec 4} {n : Nat} {s t : State}
    {addr : Byte} {v : WrData} {g : Byte → Byte} (h : Responding cfg p a b k (n + 2) t s)
    (hrd : p[k.toNat]? = some (.rd8 addr)) (hwr : p[(k + 1#4).toNat]? = some (.wr8 addr v))
    (hv : ∀ q, q.tLive = true → v.eval cfg q = .ok (g q.t)) :
    ∃ u rd wr byte, Responding cfg p a b (k + 1#4 + 1#4) n t u
      ∧ u.env.history = s.env.history ++ [rd, wr]
      ∧ rd.what = .writeThenRead (addrRd addr) 1 [byte] ∧ wr.what = .write (addrWr addr) (g byte)
      ∧ rd.began = s.env.now ∧ wr.ended = u.env.now ∧ s.env.now ≤ u.env.now
      ∧ u.seq.res = s.seq.res ∧ u.seq.resLive = s.seq.resLive := by
  obtain ⟨s1, byte, r1, d1, h1, hseq1, hnow1, hhist1⟩ := h.op hrd rfl
  have heval : v.eval cfg s1.seq = .ok (g byte) := by rw [hseq1]; exact hv _ rfl
  obtain ⟨s2, r2, r3, d2, h2, hseq2, hnow2, hhist2⟩ := h1.op hwr (frame_wr8 heval addr)
  refine ⟨s2, _, _, byte, h2, by rw [hhist2, hhist1, List.append_assoc]; rfl, rfl, rfl, rfl, hnow2.symm, by omega,
    ?_, ?_⟩ <;> rw [hseq2, hseq1] <;> rfl

/-! ## READ_RTD -/

/-- From the trigger's read to the forming of RES: the conversion's delay lies between the trigger write and the read
of the result (R133). -/
theorem Responding.conversion {cfg : Config} {a b : Word} {n : Nat} {s t : State}
    (h : Responding cfg (progReadRtd cfg) a b 4#4 (n + 5) t s) :
    ∃ u rd4 w5 dly rd7, ∃ t2 b0 b1 : Byte, Responding cfg (progReadRtd cfg) a b 9#4 n t u
      ∧ u.env.history = s.env.history ++ [rd4, w5, dly, rd7]
      ∧ rd4.what = .writeThenRead (addrRd cfg.aConfig) 1 [t2] ∧ rd4.began = s.env.now
      ∧ w5.what = .write (addrWr cfg.aConfig) (t2 ||| cfg.m1Shot) ∧ dly.what = .delayElapsed cfg.convTicks
      ∧ rd7.what = .writeThenRead (addrRd cfg.aRtdMsb) 2 [b0, b1]
      ∧ w5.ended + cfg.convTicks ≤ rd7.began ∧ rd7.began ≤ u.env.now
      ∧ u.seq.res = wordJoin b0 b1 >>> 1 ∧ u.seq.resLive = true := by
  obtain ⟨s1, rd4, w5, t2, h1, hhist1, hrd4, hw5, hbegan4, hended5, -, -, -⟩ :=
    h.rmw (g := (cfgSet · cfg.m1Shot)) rfl rfl (fun q hq => eval_setT hq _)
  obtain ⟨s2, dly, h2, hhist2, hdly, hnow2⟩ := h1.delay rfl
  obtain ⟨s3, b0, b1, d, h3, hseq3, hnow3, hhist3⟩ := h2.op (f := .read2 cfg.aRtdMsb) rfl rfl
  have hres : ResSrc.rShifted.eval s3.seq = .ok (wordJoin b0 b1 >>> 1) := by rw [hseq3]; rfl
  obtain ⟨s4, h4, hhist4, hnow4, hword, hlive⟩ := h3.setRes rfl hres
  refine ⟨s4, rd4, w5, dly, ⟨.writeThenRead (addrRd cfg.aRtdMsb) 2 [b0, b1], s2.env.now, s2.env.now + d⟩, t2, b0,
    b1, h4, ?_, hrd4, hbegan4, hw5, hdly, rfl, ?_, ?_, hword, hlive⟩
  · simp [hhist4, hhist3, hhist2, hhist1, frameEvent]
  · rw [hended5, hnow2]
  · show s2.env.now ≤ s4.env.now
    omega

/-- Settles O49: the run entry by entry, with the flag and without it. -/
theorem readRtdKeepsTheDelays : Obligations.ReadRtdKeepsTheDelays := by
  intro x y s t hbusy hreq htmr hexec hidle
  have h0 : Responding s.cfg (progReadRtd s.cfg) x y 0#4 16 t (accept 0x01#8 x y s) :=
    ⟨running_accept hreq 0x01#8 x y, htmr, (command_ready hbusy).symm.trans hexec, hidle⟩
  cases hbno : s.cfg.biasNormallyOff with
  | true =>
    obtain ⟨s1, h1, hhist1, -, -, -⟩ := h0.skip rfl (if_pos hbno)
    obtain ⟨s2, rd1, w2, t1, h2, hhist2, hrd1, hw2, -, hended2, -, -, -⟩ :=
      h1.rmw (g := (cfgSet · s.cfg.mBias)) rfl rfl (fun q hq => eval_setT hq _)
    obtain ⟨s3, dly3, h3, hhist3, hdly3, hnow3⟩ := h2.delay rfl
    obtain ⟨s4, rd4, w5, dly, rd7, t2, b0, b1, h4, hhist4, hrd4, hbegan4, hw5, hdly, hrd7, hconv, hnow4, hres4,
      hlive4⟩ := h3.conversion
    obtain ⟨s5, h5, hhist5, hnow5, hres5, hlive5⟩ := h4.skip rfl (if_pos hbno)
    obtain ⟨s6, rd10, w11, t3, h6, hhist6, hrd10, hw11, -, -, hnow6, hres6, hlive6⟩ :=
      h5.rmw (g := (cfgClr · s.cfg.mBias)) rfl rfl (fun q hq => eval_clrT hq _)
    have hword : RspSrc.res.eval s6.seq = .ok (wordJoin b0 b1 >>> 1) := by
      simp [RspSrc.eval, readRes, hlive6, hlive5, hlive4, hres6, hres5, hres4]
    obtain ⟨rsp, hhist7, hrsp, hbegan7⟩ := h6.respond rfl hword
    refine ⟨[rd1, w2, dly3], [rd10, w11], rd4, w5, dly, rd7, rsp, t2, b0, b1, ?_, hrd4, hw5, hdly, hrd7, hrsp, hconv,
      by omega, fun _ => ⟨rd1, w2, dly3, rd10, w11, t1, t3, rfl, rfl, hrd1, hw2, hdly3, by omega, hrd10, hw11⟩, nofun⟩
    simp [hhist7, hhist6, hhist5, hhist4, hhist3, hhist2, hhist1, accept, State.setSeq]
  | false =>
    have hoff : ¬ s.cfg.biasNormallyOff = true := by simp [hbno]
    obtain ⟨s1, h1, hhist1, -, -, -⟩ := h0.skip rfl (if_neg hoff)
    obtain ⟨s4, rd4, w5, dly, rd7, t2, b0, b1, h4, hhist4, hrd4, -, hw5, hdly, hrd7, hconv, hnow4, hres4, hlive4⟩ :=
      h1.conversion
    obtain ⟨s5, h5, hhist5, hnow5, hres5, hlive5⟩ := h4.skip rfl (if_neg hoff)
    have hword : RspSrc.res.eval s5.seq = .ok (wordJoin b0 b1 >>> 1) := by
      simp [RspSrc.eval, readRes, hlive5, hlive4, hres5, hres4]
    obtain ⟨rsp, hhist6, hrsp, hbegan6⟩ := h5.respond rfl hword
    refine ⟨[], [], rd4, w5, dly, rd7, rsp, t2, b0, b1, ?_, hrd4, hw5, hdly, hrd7, hrsp, hconv, by omega, nofun,
      fun _ => ⟨rfl, rfl⟩⟩
    simp [hhist6, hhist5, hhist4, hhist1, accept, State.setSeq]

end Sys2Proof.Machine
end
section
/-! PROOF. BEGIN in front of ENV-REF (spec/42_configuration.md R106, spec/70_reset_and_hazards.md R155): the frames of
a command while no conversion is pending, and the configuration byte that four read-modify-writes leave. -/

namespace Sys2Proof.Machine

/-! ## A command in execution in front of ENV-REF -/

/-- `c` entries lead from `s` to `u`, none of which loads TMR or forms RES. -/
structure Passed (c : Nat) (s u : State) : Prop where
  run : ∀ n, runCommand (n + c) s = runCommand n u
  now : s.env.now ≤ u.env.now
  tmr : u.seq.tmr = s.seq.tmr
  res : u.seq.res = s.seq.res
  resLive : u.seq.resLive = s.seq.resLive

theorem Passed.trans {c d : Nat} {s u v : State} (h : Passed c s u) (g : Passed d u v) : Passed (c + d) s v where
  run n := by rw [Nat.add_comm c, ← Nat.add_assoc, h.run, g.run]
  now := Nat.le_trans h.now g.now
  tmr := g.tmr.trans h.tmr
  res := g.res.trans h.res
  resLive := g.resLive.trans h.resLive

/-- An operation ENV-REF serves is one entry on. -/
theorem Running.refOp {cfg : Config} {p : List Micro} {a b : Word} {k : BitVec 4} {s : State} {n : Nat} {m : Micro}
    {f : Frame} {sv : Served} (h : Running cfg p a b k s) (hk : s.env.kind = .envRef) (hret : s.env.returns (n + 1))
    (hm : p[k.toNat]? = some m) (hf : m.frame cfg s.seq = some f)
    (hs : refServe cfg f (s.env.dur 0) s.env = .next sv) :
    ∃ u, Passed 1 s u ∧ Running cfg p a b (k + 1#4) u ∧ u.env.returns n
      ∧ u.env.now = s.env.now + s.env.dur 0 ∧ u.env = sv.env.account f sv.r0 sv.r1 (s.env.dur 0)
      ∧ u.seq = (takeBytes f sv.r0 sv.r1 s.seq).finish s.cfg.biasNormallyOff := by
  have hserve := serve_envRef_next (ans := s.env.answerAt 0) hk hs
  obtain ⟨u, hstep, hrun, henv, hseq⟩ := h.transact hm hf (hret.duration (by omega)) hserve
  obtain ⟨-, hnow, -⟩ := serve_next hserve
  rw [← henv] at hnow
  refine ⟨u, ⟨h.runCommand hstep, by omega, ?_, ?_, ?_⟩, hrun, henv ▸ hret.of_serve hserve, hnow, henv, hseq⟩ <;>
    rw [hseq] <;> cases f <;> rfl

/-- A command in execution at entry `k`, in front of a quiet ENV-REF whose transport answers the next `n`
operations. -/
structure RefRunning (cfg : Config) (p : List Micro) (a b : Word) (k : BitVec 4) (n : Nat) (s : State) : Prop where
  running : Running cfg p a b k s
  quiet : s.env.Quiet
  returns : s.env.returns n

/-- Between `e` and `e'` the chip's registers, the bookkeeping and the conversions to come have stayed. -/
structure Env.SameChip (e e' : Env) : Prop where
  creg : ∀ j, e'.creg j = e.creg j
  ghost : e'.ghost = e.ghost
  conversions : e'.conversions = e.conversions

/-- Between `e` and `e'` the byte `v` has been written to the configuration register, without the 1-shot bit (R56,
R58). -/
structure Env.ConfigWritten (cfg : Config) (v : Byte) (e e' : Env) : Prop where
  creg : ∀ j, e'.creg j = if j = cfg.aConfig then storedConfig cfg v
    else if hasBit v cfg.mFclr = true ∧ j = cfg.aFault then 0x00#8 else e.creg j
  ghost : e'.ghost = (e.noteConfigWrite cfg v e'.now).ghost
  conversions : e'.conversions = e.conversions

/-- The bookkeeping of a write looks at the registers and the bookkeeping. -/
theorem noteConfigWrite_ghost_of_sameChip {e e' : Env} (h : Env.SameChip e e') (cfg : Config) (v : Byte)
    (ended : Nat) : (e'.noteConfigWrite cfg v ended).ghost = (e.noteConfigWrite cfg v ended).ghost := by
  simp [Env.noteConfigWrite, h.creg, h.ghost]

theorem Env.ConfigWritten.of_sameChip {cfg : Config} {v : Byte} {e e' e'' : Env} (h : Env.SameChip e e')
    (g : Env.ConfigWritten cfg v e' e'') : Env.ConfigWritten cfg v e e'' where
  creg j := by rw [g.creg, h.creg]
  ghost := by rw [g.ghost, noteConfigWrite_ghost_of_sameChip h]
  conversions := g.conversions.trans h.conversions

theorem aConfig_mem (cfg : Config) : cfg.aConfig ∈ cfg.addresses := by simp [Config.addresses]

/-- The effect of a write to the configuration register that starts no conversion. -/
theorem refFrame_writeConfig {cfg : Config} (hmap : cfg.refMapOk = true) {v : Byte} (hshot : v &&& cfg.m1Shot = 0#8)
    (d : Nat) (e : Env) :
    refFrame cfg (.write cfg.aConfig v) d e
      = .next ⟨((e.noteConfigWrite cfg v (e.now + d)).clearFaultStatus cfg v).setCreg cfg.aConfig (storedConfig cfg v),
        0#8, 0#8⟩ := by
  rw [refFrame, addrRd_of_mem hmap (aConfig_mem cfg), refWrite_config hmap]
  simp [refWriteConfig, hasBit_eq_false_iff.mpr hshot]

theorem clearFaultStatus_sameBooks (cfg : Config) (v : Byte) (e : Env) :
    (e.clearFaultStatus cfg v).ghost = e.ghost ∧ (e.clearFaultStatus cfg v).conversions = e.conversions
      ∧ (e.clearFaultStatus cfg v).injections = e.injections := by
  unfold Env.clearFaultStatus
  split <;> exact ⟨rfl, rfl, rfl⟩

section RefRunning
variable {cfg : Config} {p : List Micro} {a b : Word} {k : BitVec 4} {s : State} {n : Nat} (hmap : cfg.refMapOk = true)
include hmap

/-- RD8 of the configuration register: its byte into T, and the chip as it was (R55, R98). -/
theorem RefRunning.readConfig (h : RefRunning cfg p a b k (n + 1) s) (hm : p[k.toNat]? = some (.rd8 cfg.aConfig)) :
    ∃ u, Passed 1 s u ∧ RefRunning cfg p a b (k + 1#4) n u ∧ Env.SameChip s.env u.env
      ∧ u.seq.t = s.env.creg cfg.aConfig ∧ u.seq.tLive = true := by
  have hserve : refServe cfg (.read1 cfg.aConfig) (s.env.dur 0) s.env
      = .next ⟨s.env, s.env.creg cfg.aConfig, 0#8⟩ := by
    rw [h.quiet.refServe, refFrame_read1 (addrRd_of_mem hmap (aConfig_mem cfg)),
      refRead1_served (refMapOk_le hmap (aConfig_mem cfg))]
  obtain ⟨u, hpass, hrun, hret, -, henv, hseq⟩ := h.running.refOp h.quiet.kind h.returns hm rfl hserve
  obtain ⟨-, hquiet, -⟩ := h
  obtain ⟨hk, ht, hp, hi⟩ := hquiet
  refine ⟨u, hpass, ⟨hrun, ?_, hret⟩, ?_, by rw [hseq]; rfl, by rw [hseq]; rfl⟩ <;> rw [henv]
  · exact ⟨hk, ht, hp, hi⟩
  · exact ⟨fun _ => rfl, rfl, rfl⟩

/-- WR8 of the configuration register, without the 1-shot bit (R56, R100). -/
theorem RefRunning.writeConfig (h : RefRunning cfg p a b k (n + 1) s) {w : WrData} {v : Byte}
    (hm : p[k.toNat]? = some (.wr8 cfg.aConfig w)) (hv : w.eval cfg s.seq = .ok v) (hshot : v &&& cfg.m1Shot = 0#8) :
    ∃ u, Passed 1 s u ∧ RefRunning cfg p a b (k + 1#4) n u ∧ Env.ConfigWritten cfg v s.env u.env := by
  have hserve := (h.quiet.refServe cfg (.write cfg.aConfig v) (s.env.dur 0)).trans
    (refFrame_writeConfig hmap hshot (s.env.dur 0) s.env)
  obtain ⟨u, hpass, hrun, hret, hnow, henv, -⟩ := h.running.refOp h.quiet.kind h.returns hm (frame_wr8 hv _) hserve
  obtain ⟨hghost, hconv, hinj⟩ :=
    clearFaultStatus_sameBooks cfg v (s.env.noteConfigWrite cfg v (s.env.now + s.env.dur 0))
  have hkind := (clearFaultStatus_frame cfg v (s.env.noteConfigWrite cfg v (s.env.now + s.env.dur 0))).kind
  obtain ⟨-, hquiet, -⟩ := h
  obtain ⟨hk, ht, hp, hi⟩ := hquiet
  refine ⟨u, hpass, ⟨hrun, ?_, hret⟩, fun j => ?_, by rw [hnow, henv]; exact hghost, henv ▸ hconv⟩ <;> rw [henv]
  · exact ⟨hkind.trans hk, (clearFaultStatus_transport ..).trans ht, (clearFaultStatus_pending ..).trans hp,
      hinj.trans hi⟩
  · rw [account_creg, creg_setCreg, clearFaultStatus_creg]
    rfl

/-- A read of the configuration register, and the write of what `g` makes of its byte. -/
theorem RefRunning.rmw (h : RefRunning cfg p a b k (n + 2) s) {w : WrData} {g : Byte → Byte}
    (hrd : p[k.toNat]? = some (.rd8 cfg.aConfig)) (hwr : p[(k + 1#4).toNat]? = some (.wr8 cfg.aConfig w))
    (hv : ∀ q, q.tLive = true → w.eval cfg q = .ok (g q.t))
    (hshot : g (s.env.creg cfg.aConfig) &&& cfg.m1Shot = 0#8) :
    ∃ u, Passed 2 s u ∧ RefRunning cfg p a b (k + 1#4 + 1#4) n u
      ∧ Env.ConfigWritten cfg (g (s.env.creg cfg.aConfig)) s.env u.env := by
  obtain ⟨s1, hpass1, h1, hchip, ht, hlive⟩ := h.readConfig hmap hrd
  obtain ⟨s2, hpass2, h2, hwritten⟩ := h1.writeConfig hmap hwr ((hv _ hlive).trans (by rw [ht])) hshot
  exact ⟨s2, hpass1.trans hpass2, h2, hwritten.of_sameChip hchip⟩

/-- WR8 of a threshold byte (R57). -/
theorem RefRunning.writeThreshold (h : RefRunning cfg p a b k (n + 1) s) {addr byte : Byte}
    (hm : p[k.toNat]? = some (.wr8 addr (.lit byte))) (haddr : isThresholdAddr cfg addr = true) :
    ∃ u, (∀ j, runCommand (j + 1) s = runCommand j u) ∧ RefRunning cfg p a b (k + 1#4) n u
      ∧ ∀ j, u.env.creg j = if j = addr then byte else s.env.creg j := by
  obtain ⟨hrun, hquiet, hret⟩ := h
  obtain ⟨u, hstep, hrun', hquiet', hret', hcreg⟩ := hrun.writeThreshold hquiet hret hmap hm rfl haddr
  exact ⟨u, hrun.runCommand hstep, ⟨hrun', hquiet', hret'⟩, hcreg⟩

end RefRunning

/-- `Init` makes a transport of any state one that is quiet, while no conversion is pending and no fault injected
(R60). -/
theorem Running.refInit {cfg : Config} {p : List Micro} {a b : Word} {k : BitVec 4} {s : State} {n : Nat}
    (h : Running cfg p a b k s) (hk : s.env.kind = .envRef) (hp : s.env.pending = none)
    (hi : s.env.injections = []) (hret : s.env.returns (n + 1)) (hm : p[k.toNat]? = some .init) :
    ∃ u, Passed 1 s u ∧ RefRunning cfg p a b (k + 1#4) n u ∧ ∀ j, u.env.creg j = s.env.creg j := by
  have hsettled : (s.env.injectNext cfg).settle cfg s.env.now = s.env := by
    simp [Env.injectNext, hi, Env.settle, hp]
  have hserve := refServe_init cfg (s.env.dur 0) s.env
  rw [hsettled] at hserve
  obtain ⟨u, hpass, hrun, hret', -, henv, -⟩ := h.refOp hk hret hm rfl hserve
  exact ⟨u, hpass, ⟨hrun, henv ▸ ⟨hk, rfl, hp, hi⟩, hret'⟩, fun j => by rw [henv]; rfl⟩

/-! ## The configuration byte BEGIN leaves -/

theorem wireBit_eq_boolBitMod (cfg : Config) (mode : WireMode) (c : Byte) :
    wireBit cfg mode c = boolBitMod (mode == .three) cfg.m3Wire c := by
  cases mode <;> rfl

theorem cfgClr_and_eq_zero {t n : Byte} (h : t &&& n = 0#8) (m : Byte) : cfgClr t m &&& n = 0#8 := by
  rw [cfgClr, BitVec.and_assoc, BitVec.and_comm (~~~m), ← BitVec.and_assoc, h, BitVec.zero_and]

/-- What ENV-REF stores has no bit that was not written. -/
theorem storedConfig_and_eq_zero {cfg : Config} {v n : Byte} (h : v &&& n = 0#8) : storedConfig cfg v &&& n = 0#8 := by
  unfold storedConfig
  split
  · exact cfgClr_and_eq_zero (cfgClr_and_eq_zero h _) _
  · exact h

/-- Outside the fault-clear and the fault-cycle bits ENV-REF stores the byte written (R56). -/
theorem storedConfig_and_of_disjoint {cfg : Config} {n : Byte} (hfclr : cfg.mFclr &&& n = 0#8)
    (hfcycle : cfg.mFcycle &&& n = 0#8) (v : Byte) : storedConfig cfg v &&& n = v &&& n := by
  unfold storedConfig
  split
  · rw [cfgClr_and_of_disjoint hfcycle, cfgClr_and_of_disjoint hfclr]
  · rfl

theorem clearFaultByte_and_eq_zero {cfg : Config} {t n : Byte} (hfclr : cfg.mFclr &&& n = 0#8) (h : t &&& n = 0#8) :
    clearFaultByte cfg t &&& n = 0#8 := by
  rw [clearFaultByte, cfgSet_and_of_disjoint hfclr, cfgClr_and_eq_zero h]

/-- The configuration byte after the wire mode is set and bias and auto-conversion cleared, as ENV-REF stores it. -/
def unbiasedConfig (cfg : Config) (mode : WireMode) (c : Byte) : Byte :=
  storedConfig cfg (cfgClr (storedConfig cfg (cfgClr (storedConfig cfg (wireBit cfg mode c)) cfg.mBias)) cfg.mAuto)

/-- The configuration byte after BEGIN. -/
def begunConfig (cfg : Config) (mode : WireMode) (c : Byte) : Byte :=
  storedConfig cfg (clearFaultByte cfg (unbiasedConfig cfg mode c))

/-- The mask shares no bit with those BEGIN clears or sets, but for the wire mode's. -/
structure KeptByBegin (cfg : Config) (n : Byte) : Prop where
  fclr : cfg.mFclr &&& n = 0#8
  fcycle : cfg.mFcycle &&& n = 0#8
  bias : cfg.mBias &&& n = 0#8
  auto : cfg.mAuto &&& n = 0#8
  clearMask : cfg.clearFaultClearMask &&& n = 0#8

theorem begunConfig_and_of_kept {cfg : Config} {n : Byte} (h : KeptByBegin cfg n) (mode : WireMode) (c : Byte) :
    begunConfig cfg mode c &&& n = wireBit cfg mode c &&& n := by
  obtain ⟨hfclr, hfcycle, hbias, hauto, hmask⟩ := h
  rw [begunConfig, unbiasedConfig, storedConfig_and_of_disjoint hfclr hfcycle, clearFaultByte,
    cfgSet_and_of_disjoint hfclr, cfgClr_and_of_disjoint hmask, storedConfig_and_of_disjoint hfclr hfcycle,
    cfgClr_and_of_disjoint hauto, storedConfig_and_of_disjoint hfclr hfcycle, cfgClr_and_of_disjoint hbias,
    storedConfig_and_of_disjoint hfclr hfcycle]

/-- No step to it sets a bit that the wire mode left clear. -/
theorem unbiasedConfig_and_eq_zero {cfg : Config} {mode : WireMode} {c n : Byte}
    (h : wireBit cfg mode c &&& n = 0#8) : unbiasedConfig cfg mode c &&& n = 0#8 :=
  storedConfig_and_eq_zero (cfgClr_and_eq_zero (storedConfig_and_eq_zero (cfgClr_and_eq_zero
    (storedConfig_and_eq_zero h) _)) _)

theorem unbiasedConfig_and_bias (cfg : Config) (mode : WireMode) (c : Byte) :
    unbiasedConfig cfg mode c &&& cfg.mBias = 0#8 :=
  storedConfig_and_eq_zero (cfgClr_and_eq_zero (storedConfig_and_eq_zero (cfgClr_and_mask _ _)) _)

theorem unbiasedConfig_and_auto (cfg : Config) (mode : WireMode) (c : Byte) :
    unbiasedConfig cfg mode c &&& cfg.mAuto = 0#8 :=
  storedConfig_and_eq_zero (cfgClr_and_mask _ _)

section BegunConfig
variable {cfg : Config} (hwf : cfg.wf = true)
include hwf

/-- The fault-clear write resets its own bit and the fault-cycle bits (R56). -/
theorem begunConfig_and_fault (mode : WireMode) (c : Byte) :
    begunConfig cfg mode c &&& cfg.mFcycle = 0#8 ∧ begunConfig cfg mode c &&& cfg.mFclr = 0#8 := by
  rw [begunConfig, storedConfig, if_pos (hasBit_clearFaultByte hwf _)]
  exact ⟨cfgClr_and_mask _ _, cfgClr_and_eq_zero (cfgClr_and_mask _ _) _⟩

/-- The fault-clear write does not start a conversion. -/
theorem clearFaultByte_unbiased_and_oneShot {mode : WireMode} {c : Byte}
    (hshot : wireBit cfg mode c &&& cfg.m1Shot = 0#8) :
    clearFaultByte cfg (unbiasedConfig cfg mode c) &&& cfg.m1Shot = 0#8 := by
  have hdis := cfgMasks_disjoint hwf
  simp only [Config.cfgMasks, List.pairwise_cons, List.forall_mem_cons] at hdis
  obtain ⟨-, -, ⟨-, -, hone, -⟩, -⟩ := hdis
  exact clearFaultByte_and_eq_zero ((BitVec.and_comm _ _).trans hone) (unbiasedConfig_and_eq_zero hshot)

/-- BEGIN leaves bias, auto-conversion, 1-shot and the fault bits clear (R155). -/
theorem begunConfig_cleared {mode : WireMode} {c : Byte} (hshot : wireBit cfg mode c &&& cfg.m1Shot = 0#8) :
    begunConfig cfg mode c
      &&& (cfg.mBias ||| cfg.mAuto ||| cfg.m1Shot ||| cfg.mFcycle ||| cfg.mFclr) = 0#8 := by
  have hdis := cfgMasks_disjoint hwf
  simp only [Config.cfgMasks, List.pairwise_cons, List.forall_mem_cons] at hdis
  obtain ⟨⟨-, -, -, -, hbias, -⟩, ⟨-, -, -, hauto, -⟩, -⟩ := hdis
  rw [BitVec.and_comm] at hbias hauto
  obtain ⟨hfcycle, hfclr⟩ := begunConfig_and_fault hwf mode c
  have h1 : begunConfig cfg mode c &&& cfg.mBias = 0#8 :=
    storedConfig_and_eq_zero (clearFaultByte_and_eq_zero hbias (unbiasedConfig_and_bias cfg mode c))
  have h2 : begunConfig cfg mode c &&& cfg.mAuto = 0#8 :=
    storedConfig_and_eq_zero (clearFaultByte_and_eq_zero hauto (unbiasedConfig_and_auto cfg mode c))
  have h3 : begunConfig cfg mode c &&& cfg.m1Shot = 0#8 :=
    storedConfig_and_eq_zero (clearFaultByte_unbiased_and_oneShot hwf hshot)
  simp [BitVec.and_or_distrib_left, h1, h2, h3, hfcycle, hfclr]

/-- BEGIN keeps the wire mode it has set, and the filter bit as it was (R106, R117). -/
theorem begunConfig_wire_filt (hclr : cfg.clearMaskPreserves = true) (mode : WireMode) (c : Byte) :
    begunConfig cfg mode c &&& cfg.m3Wire = (if mode = .three then cfg.m3Wire else 0#8)
      ∧ begunConfig cfg mode c &&& cfg.mFilt = c &&& cfg.mFilt := by
  have hdis := cfgMasks_disjoint hwf
  simp only [Config.cfgMasks, List.pairwise_cons, List.forall_mem_cons] at hdis
  obtain ⟨⟨-, -, hbiasWire, -, -, hbiasFilt, -⟩, ⟨-, hautoWire, -, -, hautoFilt, -⟩, -,
    ⟨hwireFcycle, hwireFclr, hwireFilt, -⟩, ⟨-, hfcycleFilt, -⟩, ⟨hfclrFilt, -⟩, -⟩ := hdis
  rw [BitVec.and_comm] at hwireFcycle hwireFclr
  have hmask := clearMaskPreserves_iff.mp hclr
  simp only [keptMask, BitVec.and_or_distrib_left, BitVec.or_eq_zero_iff] at hmask
  obtain ⟨⟨⟨-, hmaskWire⟩, -⟩, hmaskFilt⟩ := hmask
  rw [begunConfig_and_of_kept ⟨hwireFclr, hwireFcycle, hbiasWire, hautoWire, hmaskWire⟩,
    begunConfig_and_of_kept ⟨hfclrFilt, hfcycleFilt, hbiasFilt, hautoFilt, hmaskFilt⟩]
  cases mode
  · exact ⟨cfgClr_and_mask _ _, cfgClr_and_of_disjoint hwireFilt _⟩
  · exact ⟨cfgSet_and_mask _ _, cfgSet_and_of_disjoint hwireFilt _⟩
  · exact ⟨cfgClr_and_mask _ _, cfgClr_and_of_disjoint hwireFilt _⟩

/-- Setting the wire mode leaves a clear 1-shot bit clear. -/
theorem wireBit_and_oneShot {c : Byte} (h : c &&& cfg.m1Shot = 0#8) (mode : WireMode) :
    wireBit cfg mode c &&& cfg.m1Shot = 0#8 := by
  have hdis := cfgMasks_disjoint hwf
  simp only [Config.cfgMasks, List.pairwise_cons, List.forall_mem_cons] at hdis
  obtain ⟨-, -, ⟨hshotWire, -⟩, -⟩ := hdis
  rw [wireBit_eq_boolBitMod]
  exact boolBitMod_and_eq_zero ((BitVec.and_comm _ _).trans hshotWire) h _

end BegunConfig

/-! ## BEGIN -/

/-- Configuration, result and fault status are no threshold bytes (R36). -/
theorem isThresholdAddr_eq_false {cfg : Config} (h : cfg.refMapOk = true) {a : Byte}
    (ha : a ∈ [cfg.aConfig, cfg.aRtdMsb, cfg.aRtdLsb] ∨ a = cfg.aFault) : isThresholdAddr cfg a = false := by
  simp only [Config.refMapOk, Bool.and_eq_true, decide_eq_true_eq] at h
  obtain ⟨-, hpair⟩ := h
  have hsplit : ([cfg.aConfig, cfg.aRtdMsb, cfg.aRtdLsb]
      ++ ([cfg.aHthrMsb, cfg.aHthrLsb, cfg.aLthrMsb, cfg.aLthrLsb] ++ [cfg.aFault])).Pairwise (· ≠ ·) := hpair
  obtain ⟨-, hthr, hbefore⟩ := List.pairwise_append.mp hsplit
  obtain ⟨-, -, hafter⟩ := List.pairwise_append.mp hthr
  rw [Bool.eq_false_iff]
  intro hc
  have hmem : a ∈ [cfg.aHthrMsb, cfg.aHthrLsb, cfg.aLthrMsb, cfg.aLthrLsb] := by
    rcases isThresholdAddr_iff.mp hc with rfl | rfl | rfl | rfl <;> simp
  obtain ha | rfl := ha
  · exact hbefore a ha a (List.mem_append_left _ hmem) rfl
  · exact hafter _ hmem _ (by simp) rfl

/-- The result and threshold bytes are neither the configuration register nor the fault status (R36). -/
theorem ne_aConfig_aFault {cfg : Config} (h : cfg.refMapOk = true) {a : Byte}
    (ha : a ∈ [cfg.aRtdMsb, cfg.aRtdLsb, cfg.aHthrMsb, cfg.aHthrLsb, cfg.aLthrMsb, cfg.aLthrLsb]) :
    a ≠ cfg.aConfig ∧ a ≠ cfg.aFault := by
  simp only [Config.refMapOk, Bool.and_eq_true, decide_eq_true_eq] at h
  obtain ⟨-, hpair⟩ := h
  have hsplit : (cfg.aConfig :: ([cfg.aRtdMsb, cfg.aRtdLsb, cfg.aHthrMsb, cfg.aHthrLsb, cfg.aLthrMsb, cfg.aLthrLsb]
      ++ [cfg.aFault])).Pairwise (· ≠ ·) := hpair
  obtain ⟨hconfig, hrest⟩ := List.pairwise_cons.mp hsplit
  obtain ⟨-, -, hfault⟩ := List.pairwise_append.mp hrest
  exact ⟨(hconfig a (List.mem_append_left _ ha)).symm, hfault a ha _ (by simp)⟩

/-- A configuration write leaves the result and the thresholds as they are. -/
theorem Env.ConfigWritten.creg_other {cfg : Config} {v : Byte} {e e' : Env} (h : Env.ConfigWritten cfg v e e')
    (hmap : cfg.refMapOk = true) {a : Byte}
    (ha : a ∈ [cfg.aRtdMsb, cfg.aRtdLsb, cfg.aHthrMsb, cfg.aHthrLsb, cfg.aLthrMsb, cfg.aLthrLsb]) :
    e'.creg a = e.creg a := by
  obtain ⟨hconfig, hfault⟩ := ne_aConfig_aFault hmap ha
  rw [h.creg, if_neg hconfig, if_neg fun hc => hfault hc.2]

theorem Env.ConfigWritten.creg_config {cfg : Config} {v : Byte} {e e' : Env} (h : Env.ConfigWritten cfg v e e') :
    e'.creg cfg.aConfig = storedConfig cfg v := by
  rw [h.creg, if_pos rfl]

/-- The registers of the result (R36). -/
theorem result_addresses {cfg : Config} {a : Byte} (h : a ∈ [cfg.aRtdMsb, cfg.aRtdLsb]) :
    a ∈ [cfg.aConfig, cfg.aRtdMsb, cfg.aRtdLsb]
      ∧ a ∈ [cfg.aRtdMsb, cfg.aRtdLsb, cfg.aHthrMsb, cfg.aHthrLsb, cfg.aLthrMsb, cfg.aLthrLsb] :=
  ⟨List.mem_cons_of_mem _ h, List.mem_append_left _ h⟩

/-- BEGIN's first three read-modify-writes set the wire mode and clear bias and auto-conversion (R106). -/
theorem RefRunning.unbias {cfg : Config} {mode : WireMode} {a b : Word} {n : Nat} {s : State} (hwf : cfg.wf = true)
    (hmap : cfg.refMapOk = true) (h : RefRunning cfg (progBegin cfg mode) a b 1#4 (n + 6) s)
    (hshot : s.env.creg cfg.aConfig &&& cfg.m1Shot = 0#8) :
    ∃ u, Passed 6 s u ∧ RefRunning cfg (progBegin cfg mode) a b 7#4 n u
      ∧ u.env.creg cfg.aConfig = unbiasedConfig cfg mode (s.env.creg cfg.aConfig)
      ∧ ∀ j ∈ [cfg.aRtdMsb, cfg.aRtdLsb], u.env.creg j = s.env.creg j := by
  have hwire := wireBit_and_oneShot hwf hshot mode
  obtain ⟨s1, hpass1, h1, hw1⟩ := h.rmw hmap rfl rfl (fun q hq => eval_wireT hq mode) hwire
  have hshot1 := cfgClr_and_eq_zero (storedConfig_and_eq_zero (cfg := cfg) hwire) cfg.mBias
  rw [← hw1.creg_config] at hshot1
  obtain ⟨s2, hpass2, h2, hw2⟩ := h1.rmw hmap (g := (cfgClr · cfg.mBias)) rfl rfl (fun q hq => eval_clrT hq _) hshot1
  have hshot2 := cfgClr_and_eq_zero (storedConfig_and_eq_zero (cfg := cfg) hshot1) cfg.mAuto
  rw [← hw2.creg_config] at hshot2
  obtain ⟨s3, hpass3, h3, hw3⟩ := h2.rmw hmap (g := (cfgClr · cfg.mAuto)) rfl rfl (fun q hq => eval_clrT hq _) hshot2
  refine ⟨s3, (hpass1.trans hpass2).trans hpass3, h3, ?_, fun j hj => ?_⟩
  · rw [hw3.creg_config, hw2.creg_config, hw1.creg_config, unbiasedConfig]
  · obtain ⟨-, hmem⟩ := result_addresses hj
    rw [hw3.creg_other hmap hmem, hw2.creg_other hmap hmem, hw1.creg_other hmap hmem]

/-- BEGIN's four threshold writes open the window, and write nothing else (R106). -/
theorem RefRunning.openThresholds {cfg : Config} {mode : WireMode} {a b : Word} {n : Nat} {s : State}
    (h : RefRunning cfg (progBegin cfg mode) a b 7#4 (n + 4) s) (hmap : cfg.refMapOk = true) :
    ∃ u, (∀ j, runCommand (j + 4) s = runCommand j u) ∧ RefRunning cfg (progBegin cfg mode) a b 11#4 n u
      ∧ u.env.creg cfg.aLthrMsb = thrHi Config.thrOpenLo ∧ u.env.creg cfg.aLthrLsb = thrLo Config.thrOpenLo
      ∧ u.env.creg cfg.aHthrMsb = thrHi Config.thrOpenHi ∧ u.env.creg cfg.aHthrLsb = thrLo Config.thrOpenHi
      ∧ ∀ j, isThresholdAddr cfg j = false → u.env.creg j = s.env.creg j := by
  obtain ⟨s1, hgo1, h1, hcreg1⟩ := h.writeThreshold hmap (addr := cfg.aLthrLsb) rfl (by simp [isThresholdAddr])
  obtain ⟨s2, hgo2, h2, hcreg2⟩ := h1.writeThreshold hmap (addr := cfg.aLthrMsb) rfl (by simp [isThresholdAddr])
  obtain ⟨s3, hgo3, h3, hcreg3⟩ := h2.writeThreshold hmap (addr := cfg.aHthrLsb) rfl (by simp [isThresholdAddr])
  obtain ⟨s4, hgo4, h4, hcreg4⟩ := h3.writeThreshold hmap (addr := cfg.aHthrMsb) rfl (by simp [isThresholdAddr])
  have hdistinct := thresholdAddrs_nodup hmap
  simp only [List.nodup_cons, List.mem_cons, not_or] at hdistinct
  refine ⟨s4, fun j => by rw [← hgo4, ← hgo3, ← hgo2, ← hgo1], h4, ?_, ?_, ?_, ?_, fun j hj => ?_⟩
  · simp [hcreg4, hcreg3, hcreg2, hdistinct]
  · simp [hcreg4, hcreg3, hcreg2, hcreg1, hdistinct]
  · simp [hcreg4]
  · simp [hcreg4, hcreg3, hdistinct]
  · simp only [isThresholdAddr, Bool.or_eq_false_iff, beq_eq_false_iff_ne] at hj
    simp [hcreg4, hcreg3, hcreg2, hcreg1, hj]

/-- Settles O45: the four read-modify-writes of the configuration register start no conversion, and no later write
touches the thresholds. -/
theorem beginLeavesTheSafeDefault : Obligations.BeginLeavesTheSafeDefault := by
  intro mode x y s hbusy hreq _ hk hp hi hwf hmap hclr hret hshot
  have hexec : exec (.beginCmd mode x y) s = command 0x00#8 (wireField x (wireCode mode)) y s := rfl
  have hrun0 := running_accept hreq 0x00#8 (wireField x (wireCode mode)) y
  rw [decodeFields_begin, microProgram] at hrun0
  obtain ⟨s1, hpass1, h1, hcreg1⟩ := hrun0.refInit hk hp hi hret rfl
  have hconfig1 : s1.env.creg s.cfg.aConfig = s.env.creg s.cfg.aConfig := hcreg1 _
  obtain ⟨s2, hpass2, h2, hconfig2, hresult2⟩ := h1.unbias hwf hmap (hconfig1 ▸ hshot)
  obtain ⟨s3, hgo3, h3, hlm, hll, hhm, hhl, hother⟩ := h2.openThresholds hmap
  have hconfig3 : s3.env.creg s.cfg.aConfig = unbiasedConfig s.cfg mode (s.env.creg s.cfg.aConfig) := by
    rw [hother _ (isThresholdAddr_eq_false hmap (by simp)), hconfig2, hconfig1]
  have hwire := wireBit_and_oneShot hwf hshot mode
  have hshot3 := clearFaultByte_unbiased_and_oneShot hwf hwire
  rw [← hconfig3] at hshot3
  obtain ⟨s4, hpass4, h4, hw4⟩ := h3.rmw hmap rfl rfl (fun q hq => eval_clearFaultT hq) hshot3
  have hconfig4 := hw4.creg_config
  rw [hconfig3, ← begunConfig] at hconfig4
  have hfault4 : s4.env.creg s.cfg.aFault = 0x00#8 := by
    rw [hw4.creg, if_neg (refMapOk_fault_distinct hmap).1, if_pos ⟨hasBit_clearFaultByte hwf _, rfl⟩]
  have hresult4 : ∀ j ∈ [s.cfg.aRtdMsb, s.cfg.aRtdLsb], s4.env.creg j = s.env.creg j := fun j hj => by
    obtain ⟨hmem, hmem'⟩ := result_addresses hj
    rw [hw4.creg_other hmap hmem', hother j (isThresholdAddr_eq_false hmap (.inl hmem)), hresult2 j hj, hcreg1]
    rfl
  obtain ⟨hwire4, hfilt4⟩ := begunConfig_wire_filt hwf hclr mode (s.env.creg s.cfg.aConfig)
  have hcleared4 := begunConfig_cleared hwf hwire
  rw [← hconfig4] at hwire4 hfilt4 hcleared4
  refine ⟨respond 0x0000#16 .ok s4, ?_, rfl, rfl, rfl, rfl, h4.quiet.transport, h4.quiet.pending, hwire4, hcleared4,
    hfilt4, (hw4.creg_other hmap (by simp)).trans hlm, (hw4.creg_other hmap (by simp)).trans hll,
    (hw4.creg_other hmap (by simp)).trans hhm, (hw4.creg_other hmap (by simp)).trans hhl, hfault4,
    hresult4 _ (by simp), hresult4 _ (by simp)⟩
  rw [hexec, command_ready hbusy, commandFuel, hpass1.run 15, hpass2.run 9, hgo3 5, hpass4.run 3]
  exact h4.running.respond rfl rfl 2

end Sys2Proof.Machine
end
section
/-! PROOF. READ_RTD with bias switching in front of ENV-REF (spec/44_conversion.md R121 to R133, spec/20_memory.md R54
to R58): bias has settled when the conversion is triggered, and the conversion has completed when it is read. -/

namespace Sys2Proof.Machine

/-! ## The bookkeeping (R58) -/

section Books
variable {cfg : Config} {v : Byte} {ended : Nat} {e : Env}

/-- A write of the bias bit leaves a `bias_on` that does not lie in the future. -/
theorem exists_biasOn_noteConfigWrite (hv : hasBit v cfg.mBias = true)
    (hpast : ∀ b, e.ghost.biasOn = some b → b ≤ (ended : Int)) :
    ∃ b, (e.noteConfigWrite cfg v ended).ghost.biasOn = some b ∧ b ≤ (ended : Int) := by
  have hbias : (e.noteConfigWrite cfg v ended).ghost.biasOn
      = if (!hasBit (e.creg cfg.aConfig) cfg.mBias || e.ghost.biasOn.isNone) = true then some (ended : Int)
        else e.ghost.biasOn := by
    simp only [Env.noteConfigWrite, hv, Bool.true_and]
    split <;> rfl
  rw [hbias]
  split
  · exact ⟨ended, rfl, Int.le_refl _⟩
  · next hkept =>
    cases hb : e.ghost.biasOn with
    | none => simp [hb] at hkept
    | some b => exact ⟨b, rfl, hpast b hb⟩

/-- A trigger with bias on for the settle time finds it settled. -/
theorem trigSettled_noteConfigWrite {b : Int} (hshot : hasBit v cfg.m1Shot = true) (hv : hasBit v cfg.mBias = true)
    (hon : hasBit (e.creg cfg.aConfig) cfg.mBias = true) (hb : e.ghost.biasOn = some b)
    (hsettled : b + (cfg.settleTicks : Int) ≤ (ended : Int)) :
    (e.noteConfigWrite cfg v ended).ghost.trigSettled = true := by
  simp [Env.noteConfigWrite, hshot, hv, hon, hb, hsettled]

/-- A write to the configuration register is no result read. -/
theorem noteConfigWrite_resultValid (cfg : Config) (v : Byte) (ended : Nat) (e : Env) :
    (e.noteConfigWrite cfg v ended).ghost.resultValid = e.ghost.resultValid := by
  simp only [Env.noteConfigWrite]
  split <;> rfl

end Books

/-- The measurement of a conversion is the next one the environment has. -/
theorem conversion_word {e : Env} {d : Nat} {w : Word} {rest : List (Nat × Word)}
    (h : e.conversions = (d, w) :: rest) (cfg : Config) : (e.conversion cfg).2 = w := by
  rw [Env.conversion, h]

/-! ## The frames of a conversion -/

/-- The effect of a write to the configuration register that starts a conversion (R56). -/
theorem refFrame_writeTrigger {cfg : Config} (hmap : cfg.refMapOk = true) {v : Byte}
    (hshot : hasBit v cfg.m1Shot = true) {e : Env} (hp : e.pending = none) (d : Nat) :
    refFrame cfg (.write cfg.aConfig v) d e
      = .next ⟨(((e.noteConfigWrite cfg v (e.now + d)).clearFaultStatus cfg v).setCreg cfg.aConfig
          (storedConfig cfg v)).startConversion cfg (e.now + d), 0#8, 0#8⟩ := by
  rw [refFrame, addrRd_of_mem hmap (aConfig_mem cfg), refWrite_config hmap]
  simp [refWriteConfig, hshot, hp]

/-- The registers a completed conversion leaves (R54). -/
theorem completeConversion_registers {cfg : Config} (hmap : cfg.refMapOk = true) (w : Word) (e : Env) :
    (e.completeConversion cfg w).creg cfg.aRtdMsb = thrHi w
      ∧ (e.completeConversion cfg w).creg cfg.aRtdLsb = thrLo w
      ∧ (e.completeConversion cfg w).creg cfg.aConfig &&& cfg.m1Shot = 0#8 := by
  obtain ⟨hmsb, hlsb, -, hpair⟩ := refMapOk_distinct hmap
  refine ⟨?_, ?_, ?_⟩
  · rw [completeConversion_creg, if_neg hmsb.symm, if_neg hpair, if_pos rfl]
  · rw [completeConversion_creg, if_neg hlsb.symm, if_pos rfl]
  · rw [completeConversion_creg, if_pos rfl, cfgClr_and_mask]

theorem rtdPair_of_wf {cfg : Config} (h : cfg.wf = true) : cfg.aRtdMsb + 1#8 = cfg.aRtdLsb := by
  simp only [Config.wf, Config.pairsOk, Bool.and_eq_true, beq_iff_eq] at h
  obtain ⟨⟨⟨⟨-, ⟨hrtd, -⟩, -⟩, -⟩, -⟩, -⟩ := h
  exact hrtd.symm

/-- The effect of RD16 of the result when the pending conversion is due: it completes and is read (R54, R58). -/
theorem refServe_readDue {cfg : Config} (hwf : cfg.wf = true) (hmap : cfg.refMapOk = true) {e : Env} (h : e.Serving)
    {c : Nat} {w : Word} (hp : e.pending = some (c, w)) (hc : c ≤ e.now) (d : Nat) :
    refServe cfg (.read2 cfg.aRtdMsb) d e
      = .next ⟨(e.completeConversion cfg w).noteResultRead e.now, thrHi w, thrLo w⟩ := by
  have hmem : cfg.aRtdMsb ∈ cfg.addresses := by simp [Config.addresses]
  have hlsb := refMapOk_le hmap (a := cfg.aRtdLsb) (by simp [Config.addresses])
  have hpair := rtdPair_of_wf hwf
  have hle : cfg.aRtdMsb.toNat + 1 ≤ 0x07 := by
    have hmsb := refMapOk_le hmap hmem
    rw [← hpair] at hlsb
    bv_omega
  have hinject : e.injectNext cfg = e := by simp [Env.injectNext, h.injections]
  obtain ⟨hhi, hlo, -⟩ := completeConversion_registers hmap w e
  rw [refServe_ready h.transport, hinject, settle_of_due hp hc, refFrame_read2 (addrRd_of_mem hmap hmem),
    refRead2_served hle, if_pos rfl, hpair, hhi, hlo]
  rfl

/-! ## Entries -/

section Entries
variable {cfg : Config} {p : List Micro} {a b : Word} {k : BitVec 4} {s : State} {n : Nat}

/-- A skip is one entry on, and the chip stays. -/
theorem RefRunning.skip (h : RefRunning cfg p a b k n s) {x y u : BitVec 4} (hm : p[k.toNat]? = some (.skip x y))
    (hu : (if cfg.biasNormallyOff then x else y) = u) :
    ∃ v, Passed 1 s v ∧ RefRunning cfg p a b u n v ∧ Env.SameChip s.env v.env := by
  obtain ⟨hrun, ⟨hk, ht, hp, hi⟩, hret⟩ := h
  obtain ⟨hstep, hrun'⟩ := hrun.skip hm hu
  exact ⟨_, ⟨hrun.runCommand hstep, Nat.le_add_right _ _, rfl, rfl, rfl⟩, ⟨hrun', ⟨hk, ht, hp, hi⟩, hret⟩,
    fun _ => rfl, rfl, rfl⟩

theorem delay_env {d : Nat} (htmr : s.seq.tmr = 0) :
    (delay d s).env = Env.record (.delayElapsed d) s.env.now { s.env with now := s.env.now + d } := by
  simp [delay, endDelay, delayLeft, htmr, State.setEnv]

/-- A delay is one entry on, whatever is pending meanwhile. -/
theorem Running.delay_passed (h : Running cfg p a b k s) {d : Nat} (hm : p[k.toNat]? = some (.dly d))
    (htmr : s.seq.tmr = 0) :
    Passed 1 s (Machine.delay d s) ∧ Running cfg p a b (k + 1#4) (Machine.delay d s) := by
  obtain ⟨hstep, hrun⟩ := h.delay hm
  exact ⟨⟨h.runCommand hstep, by rw [delay_env htmr]; exact Nat.le_add_right _ _, htmr.symm, rfl, rfl⟩, hrun⟩

end Entries

/-! ## The bias and the 1-shot bit -/

section Bits
variable {cfg : Config} (hwf : cfg.wf = true)
include hwf

theorem bias_oneShot_disjoint : cfg.mBias &&& cfg.m1Shot = 0#8 := by
  have hdis := cfgMasks_disjoint hwf
  simp only [Config.cfgMasks, List.pairwise_cons, List.forall_mem_cons] at hdis
  obtain ⟨⟨-, hshot, -⟩, -⟩ := hdis
  exact hshot

theorem fault_bias_disjoint : cfg.mFclr &&& cfg.mBias = 0#8 ∧ cfg.mFcycle &&& cfg.mBias = 0#8 := by
  have hdis := cfgMasks_disjoint hwf
  simp only [Config.cfgMasks, List.pairwise_cons, List.forall_mem_cons] at hdis
  obtain ⟨⟨-, -, -, hfcycle, hfclr, -⟩, -⟩ := hdis
  exact ⟨(BitVec.and_comm _ _).trans hfclr, (BitVec.and_comm _ _).trans hfcycle⟩

/-- The byte the bias switch or the trigger sends has the bit. -/
theorem hasBit_cfgSet {m : Byte} (hm : m = cfg.mBias ∨ m = cfg.m1Shot) (c : Byte) : hasBit (cfgSet c m) m = true := by
  have hone : Config.oneBit m = true := flagMasks_oneBit hwf m (by rcases hm with rfl | rfl <;> simp)
  rw [hasBit, cfgSet_and_mask]
  exact maskIf_ne_zero hone true

theorem hasBit_bias_cfgSet_oneShot (c : Byte) :
    hasBit (cfgSet c cfg.m1Shot) cfg.mBias = hasBit c cfg.mBias := by
  rw [hasBit, cfgSet_and_of_disjoint ((BitVec.and_comm _ _).trans (bias_oneShot_disjoint hwf)), hasBit]

theorem hasBit_bias_storedConfig (v : Byte) : hasBit (storedConfig cfg v) cfg.mBias = hasBit v cfg.mBias := by
  obtain ⟨hfclr, hfcycle⟩ := fault_bias_disjoint hwf
  rw [hasBit, storedConfig_and_of_disjoint hfclr hfcycle, hasBit]

end Bits

/-! ## The parts of READ_RTD -/

section ReadRtd
variable {cfg : Config} {p : List Micro} {a b : Word} {k : BitVec 4} {s : State} {n : Nat} (hwf : cfg.wf = true)
  (hmap : cfg.refMapOk = true)
include hwf hmap

/-- The read and the write that trigger a conversion, with bias settled: it will have completed when CONV_TICKS have
passed (R56, R58). -/
theorem RefRunning.trigger (h : RefRunning cfg p a b k (n + 2) s)
    (hrd : p[k.toNat]? = some (.rd8 cfg.aConfig))
    (hwr : p[(k + 1#4).toNat]? = some (.wr8 cfg.aConfig (.setT cfg.m1Shot)))
    (hon : hasBit (s.env.creg cfg.aConfig) cfg.mBias = true) {bias : Int} (hbias : s.env.ghost.biasOn = some bias)
    (hsettled : bias + (cfg.settleTicks : Int) ≤ (s.env.now : Int)) :
    ∃ u d w, Passed 2 s u ∧ Running cfg p a b (k + 1#4 + 1#4) u ∧ u.env.Serving ∧ u.env.returns n
      ∧ d ≤ cfg.convTicks ∧ u.env.pending = some (u.env.now + d, w)
      ∧ u.env.ghost.completion = some ((u.env.now + d : Nat) : Int) ∧ u.env.ghost.trigSettled = true
      ∧ ∀ d' w' rest, s.env.conversions = (d', w') :: rest → w = w' := by
  obtain ⟨s1, hpass1, h1, hchip, ht, hlive⟩ := h.readConfig hmap hrd
  obtain ⟨hrun1, hquiet1, hret1⟩ := h1
  have heval := eval_setT (cfg := cfg) hlive cfg.m1Shot
  rw [ht] at heval
  generalize hv : cfgSet (s.env.creg cfg.aConfig) cfg.m1Shot = v at heval
  have hshot : hasBit v cfg.m1Shot = true := hv ▸ hasBit_cfgSet hwf (.inr rfl) _
  have hvbias : hasBit v cfg.mBias = true := by rw [← hv, hasBit_bias_cfgSet_oneShot hwf, hon]
  have hserve := (hquiet1.refServe cfg (.write cfg.aConfig v) (s1.env.dur 0)).trans
    (refFrame_writeTrigger hmap hshot hquiet1.pending (s1.env.dur 0))
  obtain ⟨u, hpass2, hrun2, hret2, hnow2, henv2, -⟩ :=
    hrun1.refOp hquiet1.kind hret1 hwr (frame_wr8 heval _) hserve
  have hpast := hpass1.now
  have hsettled1 : (s1.env.noteConfigWrite cfg v (s1.env.now + s1.env.dur 0)).ghost.trigSettled = true :=
    trigSettled_noteConfigWrite hshot hvbias (by rw [hchip.creg, hon]) (hchip.ghost ▸ hbias) (by push_cast; omega)
  have hkind := (clearFaultStatus_frame cfg v (s1.env.noteConfigWrite cfg v (s1.env.now + s1.env.dur 0))).kind
  obtain ⟨hghost, hconv, hinj⟩ :=
    clearFaultStatus_sameBooks cfg v (s1.env.noteConfigWrite cfg v (s1.env.now + s1.env.dur 0))
  refine ⟨u, _, _, hpass1.trans hpass2, hrun2, ?_, hret2, ?_, by rw [hnow2, henv2]; rfl, by rw [hnow2, henv2]; rfl, ?_,
    fun d' w' rest hnext => ?_⟩
  · rw [henv2]
    exact ⟨hkind.trans hquiet1.kind, (clearFaultStatus_transport ..).trans hquiet1.transport,
      hinj.trans hquiet1.injections⟩
  · obtain ⟨-, hle⟩ := conversion_ticks (one_le_convTicks_of_wf hwf)
      (((s1.env.noteConfigWrite cfg v (s1.env.now + s1.env.dur 0)).clearFaultStatus cfg v).setCreg cfg.aConfig
        (storedConfig cfg v))
    exact hle
  · rw [henv2]
    exact (congrArg Ghost.trigSettled hghost).trans hsettled1
  · exact conversion_word (hconv.trans (hchip.conversions.trans hnext)) cfg

/-- The read of a conversion that is due: the measurement into R and into the result registers, and the result is
valid if bias had settled (R54, R58, R99). -/
theorem Running.readDue (h : Running cfg p a b k s) (hserving : s.env.Serving) (hret : s.env.returns (n + 1))
    (hm : p[k.toNat]? = some (.rd16 cfg.aRtdMsb)) {c : Nat} {w : Word} (hp : s.env.pending = some (c, w))
    (hc : c ≤ s.env.now) (hcompletion : s.env.ghost.completion = some (c : Int))
    (hsettled : s.env.ghost.trigSettled = true) :
    ∃ u, Passed 1 s u ∧ RefRunning cfg p a b (k + 1#4) n u ∧ u.seq.r = w ∧ u.seq.rLive = true
      ∧ u.env.creg cfg.aRtdMsb = thrHi w ∧ u.env.creg cfg.aRtdLsb = thrLo w
      ∧ u.env.creg cfg.aConfig &&& cfg.m1Shot = 0#8 ∧ u.env.ghost.resultValid = true := by
  obtain ⟨u, hpass, hrun, hret', -, henv, hseq⟩ :=
    h.refOp hserving.kind hret hm rfl (refServe_readDue hwf hmap hserving hp hc (s.env.dur 0))
  obtain ⟨hhi, hlo, hshot⟩ := completeConversion_registers hmap w s.env
  have hquiet : u.env.Quiet := henv ▸ ⟨hserving.kind, hserving.transport, rfl, hserving.injections⟩
  have hvalid : u.env.ghost.resultValid
      = (s.env.ghost.trigSettled && s.env.ghost.completion.any fun c => c ≤ (s.env.now : Int)) := by
    rw [henv]; rfl
  refine ⟨u, hpass, ⟨hrun, hquiet, hret'⟩, ?_, by rw [hseq]; rfl, by rw [henv]; exact hhi, by rw [henv]; exact hlo,
    by rw [henv]; exact hshot, ?_⟩
  · rw [hseq]
    exact wordJoin_thr w
  · simp [hvalid, hsettled, hcompletion, hc]

/-- From READ_RTD's start to its trigger with bias switching: bias is on and has settled (R122, R133). -/
theorem RefRunning.biasSettled (hbno : cfg.biasNormallyOff = true)
    (h : RefRunning cfg (progReadRtd cfg) a b 0#4 (n + 2) s) (htmr : s.seq.tmr = 0)
    (hshot : s.env.creg cfg.aConfig &&& cfg.m1Shot = 0#8)
    (hpast : ∀ b, s.env.ghost.biasOn = some b → b ≤ (s.env.now : Int)) :
    ∃ u bias, Passed 4 s u ∧ RefRunning cfg (progReadRtd cfg) a b 4#4 n u
      ∧ hasBit (u.env.creg cfg.aConfig) cfg.mBias = true ∧ u.env.ghost.biasOn = some bias
      ∧ bias + (cfg.settleTicks : Int) ≤ (u.env.now : Int) ∧ u.env.conversions = s.env.conversions := by
  obtain ⟨s1, hpass0, h1, hchip1⟩ := h.skip rfl (if_pos hbno)
  have hshot1 : cfgSet (s1.env.creg cfg.aConfig) cfg.mBias &&& cfg.m1Shot = 0#8 := by
    rw [hchip1.creg, cfgSet_and_of_disjoint (bias_oneShot_disjoint hwf), hshot]
  obtain ⟨s2, hpass1, h2, hw2⟩ := h1.rmw hmap (g := (cfgSet · cfg.mBias)) rfl rfl (fun q hq => eval_setT hq _) hshot1
  have hw2 := hw2.of_sameChip hchip1
  have hpass2 := hpass0.trans hpass1
  obtain ⟨hpass3, hrun3⟩ := h2.running.delay_passed (d := cfg.settleTicks) rfl (hpass2.tmr.trans htmr)
  obtain ⟨bias, hbias, hbiasPast⟩ := exists_biasOn_noteConfigWrite (cfg := cfg) (e := s.env)
    (hasBit_cfgSet hwf (.inl rfl) (s1.env.creg cfg.aConfig))
    fun b hb => (hpast b hb).trans (Int.ofNat_le.mpr hpass2.now)
  have henv3 := delay_env (d := cfg.settleTicks) (hpass2.tmr.trans htmr)
  obtain ⟨-, ⟨hk2, ht2, hp2, hi2⟩, hret2⟩ := h2
  refine ⟨_, bias, hpass2.trans hpass3, ⟨hrun3, ⟨hk2, ht2, hp2, hi2⟩, hret2⟩, ?_, ?_, ?_, hw2.conversions⟩
  · show hasBit (s2.env.creg cfg.aConfig) cfg.mBias = true
    rw [hw2.creg_config, hasBit_bias_storedConfig hwf, hasBit_cfgSet hwf (.inl rfl)]
  · exact (congrArg Ghost.biasOn hw2.ghost).trans hbias
  · rw [henv3]
    show bias + (cfg.settleTicks : Int) ≤ ((s2.env.now + cfg.settleTicks : Nat) : Int)
    push_cast
    omega

/-- From the trigger to the forming of RES: the conversion has completed when it is read (R133). -/
theorem RefRunning.converted (h : RefRunning cfg (progReadRtd cfg) a b 4#4 (n + 3) s) (htmr : s.seq.tmr = 0)
    (hon : hasBit (s.env.creg cfg.aConfig) cfg.mBias = true) {bias : Int} (hbias : s.env.ghost.biasOn = some bias)
    (hsettled : bias + (cfg.settleTicks : Int) ≤ (s.env.now : Int)) :
    ∃ u, ∃ w : Word, (∀ j, runCommand (j + 5) s = runCommand j u) ∧ RefRunning cfg (progReadRtd cfg) a b 9#4 n u
      ∧ u.seq.res = w >>> 1 ∧ u.seq.resLive = true
      ∧ u.env.creg cfg.aRtdMsb = thrHi w ∧ u.env.creg cfg.aRtdLsb = thrLo w
      ∧ u.env.creg cfg.aConfig &&& cfg.m1Shot = 0#8 ∧ u.env.ghost.resultValid = true
      ∧ ∀ d' w' rest, s.env.conversions = (d', w') :: rest → w = w' := by
  obtain ⟨s1, d, w, hpass1, hrun1, ⟨hk1, ht1, hi1⟩, hret1, hd, hp1, hcompletion1, hsettled1, hword⟩ :=
    h.trigger hwf hmap rfl rfl hon hbias hsettled
  have htmr1 := hpass1.tmr.trans htmr
  obtain ⟨hpass2, hrun2⟩ := hrun1.delay_passed (d := cfg.convTicks) rfl htmr1
  have henv2 := delay_env (d := cfg.convTicks) htmr1
  have hdue : s1.env.now + d ≤ (delay cfg.convTicks s1).env.now := by
    rw [henv2]
    exact Nat.add_le_add_left hd _
  obtain ⟨s3, hpass3, h3, hr, hrLive, hhi, hlo, hshot, hvalid⟩ :=
    hrun2.readDue hwf hmap ⟨hk1, ht1, hi1⟩ hret1 rfl hp1 hdue hcompletion1 hsettled1
  have heval : ResSrc.rShifted.eval s3.seq = .ok (w >>> 1) := by
    simp [ResSrc.eval, readR, hrLive, hr, Except.map, rtdCode]
  obtain ⟨hstep4, hrun4⟩ := h3.running.setRes rfl heval
  obtain ⟨hk3, ht3, hp3, hi3⟩ := h3.quiet
  have hpass := (hpass1.trans hpass2).trans hpass3
  exact ⟨_, w, fun j => (hpass.run (j + 1)).trans (h3.running.runCommand hstep4 j),
    ⟨hrun4, ⟨hk3, ht3, hp3, hi3⟩, h3.returns⟩, rfl, rfl, hhi, hlo, hshot, hvalid, hword⟩

end ReadRtd

/-- Settles O46: bias settles, the conversion completes, its result is read, and bias is switched off again. -/
theorem readRtdReadsAValidResult : Obligations.ReadRtdReadsAValidResult := by
  intro x y s hready hret hbno hshot hpast
  have hquiet := hready.quiet
  obtain ⟨hbusy, hreq, htmr, -, -, -, -, hwf, hmap⟩ := hready
  have hexec : exec (.readRtd x y) s = command 0x01#8 x y s := rfl
  have h0 : RefRunning s.cfg (progReadRtd s.cfg) x y 0#4 7 (accept 0x01#8 x y s) :=
    ⟨running_accept hreq 0x01#8 x y, hquiet, hret⟩
  obtain ⟨s1, bias, hpass1, h1, hon, hbias, hsettled, hconv1⟩ := h0.biasSettled hwf hmap hbno htmr hshot hpast
  obtain ⟨s2, w, hgo2, h2, hres2, hlive2, hhi, hlo, hshot2, hvalid2, hword⟩ :=
    h1.converted hwf hmap (hpass1.tmr.trans htmr) hon hbias hsettled
  obtain ⟨s3, hpass3, h3, hchip3⟩ := h2.skip rfl (if_pos hbno)
  have hshot3 : s3.env.creg s.cfg.aConfig &&& s.cfg.m1Shot = 0#8 := by rw [hchip3.creg, hshot2]
  obtain ⟨s4, hpass4, h4, hw4⟩ := h3.rmw hmap (g := (cfgClr · s.cfg.mBias)) rfl rfl (fun q hq => eval_clrT hq _)
    (cfgClr_and_eq_zero hshot3 _)
  have hw4 := hw4.of_sameChip hchip3
  have hpass := hpass3.trans hpass4
  have hrsp : RspSrc.res.eval s4.seq = .ok (w >>> 1) := by
    simp [RspSrc.eval, readRes, hpass.res, hpass.resLive, hres2, hlive2]
  refine ⟨respond (w >>> 1) .ok s4, w, ?_, rfl, rfl, rfl, fun d w' rest h => hword d w' rest (hconv1.trans h),
    (hw4.creg_other hmap (by simp)).trans hhi, (hw4.creg_other hmap (by simp)).trans hlo, ?_, h4.quiet.pending, ?_⟩
  · rw [hexec, command_ready hbusy, commandFuel, hpass1.run 12, hgo2 7, hpass.run 4]
    exact h4.running.respond rfl hrsp 3
  · exact (congrArg Ghost.resultValid hw4.ghost).trans ((noteConfigWrite_resultValid ..).trans hvalid2)
  · show s4.env.creg s.cfg.aConfig &&& (s.cfg.m1Shot ||| s.cfg.mBias) = 0#8
    rw [hw4.creg_config, BitVec.and_or_distrib_left, storedConfig_and_eq_zero (cfgClr_and_eq_zero hshot3 _),
      storedConfig_and_eq_zero (cfgClr_and_mask _ _), BitVec.or_self]

end Sys2Proof.Machine
end
